-- ==== Sys2Proof/Word.lean ====
section
/-! DEFINITION. The word types of the ENGINE: the widths that spec/00_scope.md R10 fixes.
Only what the spec treats as bits is a bit vector: register contents, window offsets, command words, the
configuration byte, bytes of the row buffer, tick counts and delay counts. -/

namespace Sys2Proof

/-- A byte: an entry of the row buffer (R35), or the configuration shadow CFG (R25). -/
abbrev Byte := BitVec 8

/-- A 16-bit unsigned quantity: a pulse duration in ticks (R10, R103). -/
abbrev Half := BitVec 16

/-- A host register, a command word or a delay count: 32 bits (R10, R100). -/
abbrev Word := BitVec 32

/-- A byte offset in the host window: 16 bits (R10, R70). -/
abbrev Offset := BitVec 16

/-- The opcode field `OP` of a command word: 4 bits (R100, R30). -/
abbrev Nibble := BitVec 4

/-- The error code in STATUS.ERR: 3 bits (R10, R22). -/
abbrev ErrCode := BitVec 3

end Sys2Proof
end

