-- ==== Sys2Proof/Config.lean ====
section
/-! DEFINITION. What an implementation fixes and what the spec leaves free.
`Params` holds the implementation parameters of spec/00_scope.md R8, none of which has a value in the source.
A state carries its parameters (Machine/State.lean), so a statement about every state is a statement about every
parameter set; the machine after reset takes `Config.params`, an arbitrary well-formed set that nothing can evaluate.
`Config.freeAnswer` and the other free constants below are the draws of R12, used where State supplies none. -/

namespace Sys2Proof

/-- An answer of the pulse-train peripheral: `OK` or `FAIL` (R176, R177, R178, R186). -/
inductive Answer where
  | ok
  | fail
deriving DecidableEq, Repr, Inhabited

/-- Who owns the channel after a failed submission or completion: a draw in `{Idle, InFlight}` (R177, R178, R186). -/
inductive Owner where
  | idle
  | inFlight
deriving DecidableEq, Repr, Inhabited

/-- The outcome of a row transfer: `OK` or `ERR` (R34, R201). -/
inductive BusResult where
  | ok
  | err
deriving DecidableEq, Repr, Inhabited

/-- The four agents that have steps of their own (R7). -/
inductive Agent where
  | host
  | seq
  | ptx
  | dma
deriving DecidableEq, Repr, Inhabited

/-- The implementation parameters of R8 and the window's base address of R70, under the spec's names.
Durations are 16-bit tick counts and delays 32-bit cycle counts (R10). -/
structure Params where
  /-- `BYTES_PER_LINE`, the size of the row buffer. -/
  bytesPerLine : Nat
  /-- `PULSE_TICK`, the duration of one tick, in a unit the spec does not name; no rule reads it. -/
  pulseTick : Nat
  /-- `PULSE_MAX_TICKS`, the largest duration the pulse peripheral accepts in one segment. -/
  pulseMaxTicks : Half
  /-- `CYCLE`, the duration of one DELAY cycle, in a unit the spec does not name; no rule reads it. -/
  cycle : Nat
  dPon0 : Word
  dPon1 : Word
  dPon2 : Word
  dPon3 : Word
  dPon4 : Word
  dPoff1 : Word
  dPoff2 : Word
  dPoff3 : Word
  dPoff4 : Word
  fsAH : Half
  fsAL : Half
  fsLongH : Half
  fsLongL : Half
  fsPrimeH : Half
  fsPrimeL : Half
  fsZH : Half
  fsZL : Half
  feH : Half
  feL : Half
  skipH : Half
  skipL : Half
  /-- `SKIP_WAIT`, whether SKIP's pulse is waited (open, D20). -/
  skipWait : Bool
  /-- `ROW_LOW`, `fixed_small_low` of OUTPUT_ROW's pulse. -/
  rowLow : Half
  /-- `RECLAIM_PRESENT`, whether the RECLAIM command exists (R105). -/
  reclaimPresent : Bool
  /-- `ENGINE_BASE`, the window's base in the host's own address map; no rule uses it (R70). -/
  engineBase : Nat
deriving DecidableEq, Repr

namespace Params

/-- R8: `1 <= BYTES_PER_LINE <= 0xFF00`, so that the buffer window fits in the 16-bit host window. -/
def lineFits (p : Params) : Bool := 1 ≤ p.bytesPerLine && p.bytesPerLine ≤ 0xFF00

/-- R8: `PULSE_TICK > 0` and `CYCLE > 0`. -/
def unitsPositive (p : Params) : Bool := 0 < p.pulseTick && 0 < p.cycle

/-- R8: `D_PON_2 > D_PON_1`. -/
def settleLonger (p : Params) : Bool := p.dPon1 < p.dPon2

/-- The fixed pulse durations of R8, each of which must be at most `PULSE_MAX_TICKS`. -/
def fixedTicks (p : Params) : List Half :=
  [p.fsAH, p.fsAL, p.fsLongH, p.fsLongL, p.fsPrimeH, p.fsPrimeL, p.fsZH, p.fsZL,
   p.feH, p.feL, p.skipH, p.skipL, p.rowLow]

/-- R8: every fixed duration is at most `PULSE_MAX_TICKS`. -/
def ticksFit (p : Params) : Bool := p.fixedTicks.all fun t => t ≤ p.pulseMaxTicks

/-- The constraints of R8, all of them. -/
def wf (p : Params) : Bool := p.lineFits && p.unitsPositive && p.settleLonger && p.ticksFit

/-- The reference set REF of spec/95_test_vectors.md §1, used by tests only: "REF values are not hardware values"
(D37). `PULSE_TICK`, `CYCLE` and `ENGINE_BASE` have no REF value, since no rule reads them. -/
def ref : Params where
  bytesPerLine := 4
  pulseTick := 1
  pulseMaxTicks := 0x7FFF
  cycle := 1
  dPon0 := 0
  dPon1 := 100
  dPon2 := 500
  dPon3 := 100
  dPon4 := 0
  dPoff1 := 10
  dPoff2 := 100
  dPoff3 := 0
  dPoff4 := 0
  fsAH := 11
  fsAL := 1
  fsLongH := 120
  fsLongL := 1
  fsPrimeH := 12
  fsPrimeL := 1
  fsZH := 13
  fsZL := 1
  feH := 14
  feL := 1
  skipH := 15
  skipL := 1
  skipWait := true
  rowLow := 2
  reclaimPresent := true
  engineBase := 0

end Params

/-- A parameter set together with the proof that R8's constraints hold of it. -/
structure OkParams where
  val : Params := Params.ref
  ok : val.wf = true := by decide
deriving Inhabited

/-- The parameters of the machine after reset: ANY well-formed set. Opaque, so no proof can see a value of it. -/
opaque Config.params : OkParams

/-- Free answer of the pulse-train peripheral for the n-th draw that State does not supply (D12). -/
opaque Config.freeAnswer : Nat → Answer

/-- Free channel owner after a failed submission or completion (D12). -/
opaque Config.freeOwner : Nat → Owner

/-- Free outcome of a row transfer (D24). -/
opaque Config.freeBusResult : Nat → BusResult

/-- Free value of a row-buffer byte that nothing has written (D22). -/
opaque Config.freeByte : Nat → Byte

/-- Free value of an ARG register that the HOST reads before writing it (R74). -/
opaque Config.freeWord : Nat → Word

/-- Free choice of the agent that takes the next turn (R13, R81). -/
opaque Config.freeTurn : Nat → Agent

end Sys2Proof
end

