-- ==== Sys2Proof/Syntax.lean ====
section
/-! DEFINITION. The host command set of spec/30_encoding.md R102: one constructor per row of spec/opcode_table.json. -/

namespace Sys2Proof

/-- A host command. PULSE carries its wait flag `W`; the durations of PULSE and OUTPUT_ROW are not part of the
command, they come from ARG0 and ARG1 when the command is issued (R103). -/
inductive Instr where
  /-- POWER_ON, word `0x00000001` (R230). -/
  | powerOn
  /-- POWER_OFF, word `0x00000002` (R232). -/
  | powerOff
  /-- FRAME_START, word `0x00000003` (R234). -/
  | frameStart
  /-- FRAME_END, word `0x00000004` (R236). -/
  | frameEnd
  /-- OUTPUT_ROW, word `0x00000005` (R205). -/
  | outputRow
  /-- SKIP, word `0x00000006` (R210). -/
  | skip
  /-- PULSE, words `0x00000007` (nowait) and `0x00000107` (wait) (R185). -/
  | pulse (wait : Bool)
  /-- RECLAIM, word `0x00000008`, present when `RECLAIM_PRESENT` is true (R187). -/
  | reclaim
deriving DecidableEq, Repr

end Sys2Proof
end

