-- ==== Sys2Proof/WellFormed.lean ====
section
/-! DEFINITION. Which terms are well formed: a command against the parameters (R104, R105), and a host assembly
statement (R107, R108). The parameters' own checks are `Params.wf` in Config.lean (R8). -/

namespace Sys2Proof

/-- R104, R105: every command word of R102 is legal, but for RECLAIM when `RECLAIM_PRESENT = false`. -/
def Instr.wf (p : Params) : Instr → Bool
  | .reclaim => p.reclaimPresent
  | .powerOn | .powerOff | .frameStart | .frameEnd | .outputRow | .skip | .pulse _ => true

/-- R103, R104: an operand register that a command reads holds a 16-bit quantity, its bits `[31:16]` 0. -/
def operandWf (v : Word) : Bool := v.extractLsb' 16 16 == 0

/-- R108: the assembler refuses a SET_BUFFER of more than `BYTES_PER_LINE` bytes. -/
def bufferCopyWf (p : Params) (data : List Byte) : Bool := data.length ≤ p.bytesPerLine

/-- R108: the form `DO <mnemonic>` exists for the six commands that read no operand register. -/
def doWf : Instr → Bool
  | .powerOn | .powerOff | .frameStart | .frameEnd | .skip | .reclaim => true
  | .outputRow | .pulse _ => false

end Sys2Proof
end

