-- ==== Sys2Proof/Decode.lean ====
section
/-! DEFINITION. Decoding and encoding of command words (spec/30_encoding.md).
The decoder is total on every 32-bit word and on every byte list, and rejects by name.
Two conditions of R104 are not the word's: `RECLAIM_PRESENT = false` and an ARG register with bits `[31:16]` set; issue
checks them (Machine/Ops.lean). -/

namespace Sys2Proof

/-- Why a word is no command (R104). -/
inductive DecodeError where
  /-- `OP` is `0x0` or `0x9`..`0xF`. -/
  | reservedOpcode
  /-- One of bits `[7:4]` or `[31:9]` is 1. -/
  | reservedBits
  /-- `W = 1` with an opcode other than PULSE. -/
  | waitNotAllowed
  /-- Fewer than four bytes: a command is exactly 4 bytes (R106). -/
  | tooShort
deriving DecidableEq, Repr

/-- `OP`, bits `[3:0]` of a command word (R100, R101). -/
def opField (v : Word) : Nibble := v.extractLsb' 0 4

/-- `W`, bit 8 of a command word (R100, R101). -/
def waitField (v : Word) : Bool := v.getLsbD 8

/-- Bits `[7:4]` and `[31:9]`, which R100 reserves as 0, are all 0. -/
def reservedClear (v : Word) : Bool := v.extractLsb' 4 4 == 0 && v.extractLsb' 9 23 == 0

/-- A command other than PULSE: its `W` must be 0 (R104). -/
def withoutWait (w : Bool) (i : Instr) : Except DecodeError Instr :=
  if w then .error .waitNotAllowed else .ok i

/-- The command with opcode `op` and wait flag `w` (the opcode map R102). -/
def instrOf (op : Nibble) (w : Bool) : Except DecodeError Instr :=
  match op.toNat with
  | 0x1 => withoutWait w .powerOn
  | 0x2 => withoutWait w .powerOff
  | 0x3 => withoutWait w .frameStart
  | 0x4 => withoutWait w .frameEnd
  | 0x5 => withoutWait w .outputRow
  | 0x6 => withoutWait w .skip
  | 0x7 => .ok (.pulse w)
  | 0x8 => withoutWait w .reclaim
  | _ => .error .reservedOpcode

/-- The decoder of a command word (R100 to R104). -/
def decodeWord (v : Word) : Except DecodeError Instr :=
  if reservedClear v then instrOf (opField v) (waitField v) else .error .reservedBits

/-- Four bytes as a word, little-endian: the byte at offset +0 is bits `[7:0]` (R78). -/
def wordOfBytes (b0 b1 b2 b3 : Byte) : Word := (b3 ++ b2) ++ (b1 ++ b0)

/-- The decoder on bytes, as a host bridge that splits a word would lay them out (R78): a command takes exactly four
bytes (R106); the rest of the list is handed back. -/
def decodeBytes : List Byte → Except DecodeError (Instr × List Byte)
  | b0 :: b1 :: b2 :: b3 :: rest =>
    match decodeWord (wordOfBytes b0 b1 b2 b3) with
    | .ok i => .ok (i, rest)
    | .error e => .error e
  | _ => .error .tooShort

/-- The opcode number of a command (R102). -/
def opOf : Instr → Nibble
  | .powerOn => 0x1
  | .powerOff => 0x2
  | .frameStart => 0x3
  | .frameEnd => 0x4
  | .outputRow => 0x5
  | .skip => 0x6
  | .pulse _ => 0x7
  | .reclaim => 0x8

/-- The wait flag of a command: 0 for every command but PULSE (R100). -/
def waitOf : Instr → Bool
  | .pulse w => w
  | .powerOn | .powerOff | .frameStart | .frameEnd | .outputRow | .skip | .reclaim => false

/-- A command's word from its two fields, every reserved bit 0 (the format C of R100). -/
def encodeFields (op : Nibble) (w : Bool) : Word :=
  op.zeroExtend 32 ||| (if w then 1#32 <<< 8 else 0#32)

/-- The command word of a command (R100, R102). -/
def encode (i : Instr) : Word := encodeFields (opOf i) (waitOf i)

/-- The bytes of a command word, little-endian (R78). -/
def encodeBytes (i : Instr) : List Byte :=
  let v := encode i
  [v.extractLsb' 0 8, v.extractLsb' 8 8, v.extractLsb' 16 8, v.extractLsb' 24 8]

/-- The `match` column of spec/opcode_table.json (R109). -/
def tableMatch : Instr → Word
  | .powerOn => 0x00000001
  | .powerOff => 0x00000002
  | .frameStart => 0x00000003
  | .frameEnd => 0x00000004
  | .outputRow => 0x00000005
  | .skip => 0x00000006
  | .pulse _ => 0x00000007
  | .reclaim => 0x00000008

/-- The `mask` column of spec/opcode_table.json (R109): PULSE alone leaves a bit, its `W`, out of its mask. -/
def tableMask : Instr → Word
  | .pulse _ => 0xFFFFFEFF
  | .powerOn | .powerOff | .frameStart | .frameEnd | .outputRow | .skip | .reclaim => 0xFFFFFFFF

/-- The decoder on a word of the opcode table: `nbits` bits `w`, every bit above them 0. A command has one 32-bit
word, so bits of `w` from 32 on belong to no command. -/
def decodeTableWord (nbits w : Nat) : Option Instr :=
  let v := w % 2 ^ nbits
  if v < 2 ^ 32 then
    match decodeWord (BitVec.ofNat 32 v) with
    | .ok i => some i
    | .error _ => none
  else none

end Sys2Proof
end

