-- ==== Sys2Proof/Machine/State.lean ====
section
/-! DEFINITION. The state of the model (spec/10_state.md R20 to R60), plain data, and the state after reset.
Beside the spec's own state it holds three things of the model's: the HOST's program and what it has read (R107), the
draws (R12), and the parameters (R8). -/

namespace Sys2Proof.Machine

/-! ### The values state takes -/

/-- The ENGINE's two operand registers (R21). -/
inductive ArgReg where
  | arg0
  | arg1
deriving DecidableEq, Repr

/-- Engine errors (R260). Codes 5 to 7 are never produced. -/
inductive Err where
  /-- No error, or a command is running. -/
  | none
  /-- The pulse-train peripheral answered FAIL at initialization, submission or completion. -/
  | pulseConfig
  /-- A PULSE uop found the channel InFlight. -/
  | channelUnavailable
  /-- A row transfer completed with ERR. -/
  | busTransfer
  /-- A reserved or malformed command word, or an operand register with bits `[31:16]` set. -/
  | illegalCommand
deriving DecidableEq, Repr

/-- The pulse channel's ownership state (R32). -/
inductive Channel where
  | uninitialized
  | idle
  | inFlight
deriving DecidableEq, Repr

/-- What SEQ waits for (R30). -/
inductive Hold where
  | none
  | pulseDone
  | dmaDone
deriving DecidableEq, Repr

/-- The level of a configuration line, or of a bit the panel has taken from one (R40, R43). -/
inductive Level where
  | low
  | high
  | unknown
deriving DecidableEq, Repr

/-- The level of the pulse line (R40). -/
inductive PulseLevel where
  | low
  | high
  | unknown
  | playing
deriving DecidableEq, Repr

/-- The three configuration lines (R40). -/
inductive Line where
  | data
  | clk
  | str
deriving DecidableEq, Repr

/-- The ghost power and frame phase (R45). -/
inductive Phase where
  | off
  | poweringUp
  | idlePowered
  | frameActive
  | poweringDown
  /-- After a command that ended with an engine error. -/
  | unknown
deriving DecidableEq, Repr

/-- Model faults (R270): host contract violations, and cases the source gives no meaning. Recorded in the state; the
machine goes on (R271). -/
inductive ModelFault where
  /-- HOST write to CMD while a command runs (R130). -/
  | cmdBusy
  /-- HOST write to BUF while a command runs (R76). -/
  | busyWrite
  /-- Read of CMD, write of STATUS or CFG, access to the reserved registers (R75). -/
  | access
  /-- Access at or past the end of the row-buffer window (R75). -/
  | unmapped
  /-- Wrong width or misaligned offset (R73). -/
  | width
  /-- A command reads an ARG register that nothing has written since reset (R131). -/
  | argUnwritten
  /-- A pulse duration above `PULSE_MAX_TICKS` (R174). -/
  | durRange
deriving DecidableEq, Repr

/-- Eight bits, each known or not, most significant first: the panel's shift register or latch (R43). -/
structure PanelByte where
  b7 : Level
  b6 : Level
  b5 : Level
  b4 : Level
  b3 : Level
  b2 : Level
  b1 : Level
  b0 : Level
deriving DecidableEq, Repr

/-- The events of the signal trace (R50). -/
inductive Event where
  /-- A host command began. -/
  | cmd (op : Nibble) (w : Bool)
  /-- One level write to a configuration line. -/
  | gpio (line : Line) (b : Bool)
  /-- A busy wait of at least `n` cycles. -/
  | wait (n : Word)
  /-- A waveform submitted: high for `h1` ticks, then low for `l1` ticks, then the sentinel. -/
  | pulseTx (h1 l1 : Half)
  /-- A transmission ended. -/
  | pulseDone
  /-- The row buffer submitted to the parallel bus, in index order. -/
  | dmaTx (row : List Byte)
  /-- A row transfer completed. -/
  | dmaDone (r : BusResult)
  /-- A command ended with this engine error. -/
  | done (e : Err)
deriving DecidableEq, Repr

/-- One HOST step of a host program (R107, R108): an access to the window of `width` bytes at `off`, or `WAIT_IDLE`
taken as one step that holds until `busy = 0` and then reads STATUS. A byte write carries its byte in `v[7:0]`. -/
inductive Access where
  | write (off : Offset) (width : Nat) (v : Word)
  | read (off : Offset) (width : Nat)
  | waitIdle
deriving DecidableEq, Repr

/-- A value the HOST has read: an observation of its program (R107). A byte read gives a value below 256. -/
structure Observation where
  off : Offset
  width : Nat
  value : Word
deriving DecidableEq, Repr

/-- The row buffer: the written bytes as (index, byte) pairs, indexes strictly rising. An index that is not listed
holds no written byte; the spec calls its value `UNDEF` (R35). -/
abbrev Memory := List Host.Cell

/-! ### The pieces of state -/

/-- The HOST agent: its remaining program, first statement first, and what it has read, oldest first (R7, R107). -/
structure HostSide where
  program : List Access
  seen : List Observation
deriving DecidableEq, Repr

/-- The operand registers ARG0 and ARG1 and their written-since-reset bits (R21). -/
structure Regs where
  arg0 : Word
  arg1 : Word
  argw0 : Bool
  argw1 : Bool
deriving DecidableEq, Repr

/-- The sequencer SEQ (R30) and the error code of the last command (R31). -/
structure Seq where
  /-- A command is executing. -/
  busy : Bool
  /-- The latched opcode. -/
  op : Nibble
  /-- The latched wait flag. -/
  w : Bool
  /-- The latched operands. -/
  a0 : Half
  a1 : Half
  /-- The index of the next uop in the command's uop list. -/
  upc : Nat
  hold : Hold
  err : Err
deriving DecidableEq, Repr

/-- The pulse channel (R32), the transmitter PTX (R33) and the pulse line (R40). -/
structure PulseUnit where
  ch : Channel
  active : Bool
  /-- The waveform being played: its high and its low ticks. -/
  wf : Option (Half × Half)
  line : PulseLevel
deriving DecidableEq, Repr

/-- The DMA agent's state (R34). -/
structure Dma where
  active : Bool
  result : Option BusResult
deriving DecidableEq, Repr

/-- The levels of the three configuration lines (R40). -/
structure Lines where
  data : Level
  clk : Level
  str : Level
deriving DecidableEq, Repr

/-- The PANEL observer (R43): `SR` and `PANEL_CFG`. -/
structure Panel where
  sr : PanelByte
  latched : PanelByte
deriving DecidableEq, Repr

/-- The model's own field: the free inputs of the steps (R12). Each list holds answers that the state supplies, the
next one first; past its end a draw is the `drawn`-th value of the matching opaque constant of Config.lean. -/
structure Draws where
  /-- Answers of the pulse-train peripheral, at initialization, submission and completion alike. -/
  answers : List Answer
  /-- Channel owners after a failed submission or completion. -/
  owners : List Owner
  /-- Outcomes of row transfers. -/
  busResults : List BusResult
  /-- Values of row-buffer bytes that nothing has written. -/
  bytes : List Byte
  /-- Values the HOST reads from an unwritten ARG register. -/
  words : List Word
  /-- Agents that take the next turns, where more than one could. -/
  turns : List Agent
  /-- How many draws have been taken that no list supplied. -/
  drawn : Nat
deriving DecidableEq, Repr

/-- The state of the model (R20). -/
@[ext]
structure State where
  /-- The implementation parameters (R8); no step changes them. -/
  params : Params
  host : HostSide
  regs : Regs
  /-- The configuration shadow CFG (R25). -/
  cfg : Byte
  seq : Seq
  pulse : PulseUnit
  dma : Dma
  /-- The row buffer BUF (R35). -/
  buf : Memory
  lines : Lines
  panel : Panel
  /-- The ghost PHASE (R45). -/
  phase : Phase
  /-- `MF`, the model faults recorded, each once, in the order of their first recording (R46). -/
  faults : List ModelFault
  /-- `TRACE`, oldest event first (R50). -/
  trace : List Event
  draws : Draws
deriving DecidableEq, Repr

/-! ### How a step can end other than in a next state -/

/-- Why the machine stops. An engine error (R260) and a model fault (R270) are not among these: both leave a next
state. -/
inductive Fault where
  /-- Raised by the schedule (Machine/Schedule.lean) when a command is running and no agent has an enabled step: the
  run is stuck, as after `MF(DUR_RANGE)` (R271). Safe: the spec gives such a state no step. -/
  | stuck
  /-- Raised by SEQ (Machine/Sequencer.lean) when the latched opcode or `upc` names no uop, or a hold is set at a uop
  that never holds. No run reaches such a state (the spec's `upc` stays within its list, R30). Safe. -/
  | noUop
deriving DecidableEq, Repr

/-- Why the model refuses. No arm of `exec` is refused: the constructor is the host interface's. -/
inductive Refusal where
  /-- An instruction that has no meaning yet. Raised by nothing in this model. Safe. -/
  | notModelled (mnemonic : String)
deriving DecidableEq, Repr

/-- The outcome of one step of this machine. -/
abbrev Result := Host.Outcome State Fault Refusal

/-! ### Named updates, one per field -/

namespace State

def setHost (s : State) (x : HostSide) : State := { s with host := x }
def setRegs (s : State) (x : Regs) : State := { s with regs := x }
def setCfg (s : State) (x : Byte) : State := { s with cfg := x }
def setSeq (s : State) (x : Seq) : State := { s with seq := x }
def setPulse (s : State) (x : PulseUnit) : State := { s with pulse := x }
def setDma (s : State) (x : Dma) : State := { s with dma := x }
def setBuf (s : State) (x : Memory) : State := { s with buf := x }
def setLines (s : State) (x : Lines) : State := { s with lines := x }
def setPanel (s : State) (x : Panel) : State := { s with panel := x }
def setPhase (s : State) (x : Phase) : State := { s with phase := x }
def setFaults (s : State) (x : List ModelFault) : State := { s with faults := x }
def setTrace (s : State) (x : List Event) : State := { s with trace := x }
def setDraws (s : State) (x : Draws) : State := { s with draws := x }

end State

/-! ### Reset -/

/-- Eight unknown bits (R60). -/
def PanelByte.unknown : PanelByte :=
  ⟨.unknown, .unknown, .unknown, .unknown, .unknown, .unknown, .unknown, .unknown⟩

/-- The state after reset with parameters `p` (R60, R300). The operand registers and `op`, `w`, `a0`, `a1`, `upc` are
`unspecified` in R60: zero is this model's choice (DESIGN CHOICE, notes/assumptions/5 and 6), and the draws start with
none supplied (notes/assumptions/3). -/
def State.resetWith (p : Params) : State where
  params := p
  host := { program := [], seen := [] }
  regs := { arg0 := 0, arg1 := 0, argw0 := false, argw1 := false }
  cfg := 0x12
  seq := { busy := false, op := 0, w := false, a0 := 0, a1 := 0, upc := 0, hold := .none, err := .none }
  pulse := { ch := .uninitialized, active := false, wf := none, line := .unknown }
  dma := { active := false, result := none }
  buf := []
  lines := { data := .unknown, clk := .unknown, str := .unknown }
  panel := { sr := .unknown, latched := .unknown }
  phase := .off
  faults := []
  trace := []
  draws :=
    { answers := [], owners := [], busResults := [], bytes := [], words := [], turns := [], drawn := 0 }

/-- The machine right after reset (R60, R300), with an arbitrary well-formed parameter set. -/
def State.reset : State := State.resetWith Config.params.val

end Sys2Proof.Machine
end

