-- ==== Sys2Proof/Machine/Uop.lean ====
section
/-! DEFINITION. The micro-operations of SEQ (R133) and how one ends (R134). They have no host encoding (R102). -/

namespace Sys2Proof.Machine

/-- The eight fields of CFG (R25). -/
inductive Field where
  | outputEnable
  | mode
  | scanDirection
  | stv
  | negPowerEnable
  | posPowerEnable
  | powerDisable
  | latchEnable
deriving DecidableEq, Repr

/-- The uops (R133). -/
inductive Uop where
  /-- `SETF f, b` (R150). -/
  | setf (f : Field) (b : Bool)
  /-- `SHIFT` (R151). -/
  | shift
  /-- `DELAY n` (R137). -/
  | delay (n : Word)
  /-- `PULSE h, l, wt` (R182). -/
  | pulse (h l : Half) (wt : Bool)
  /-- `RECLAIM` (R186). -/
  | reclaim
  /-- `DMA_ROW` (R200). -/
  | dmaRow
deriving DecidableEq, Repr

/-- How a uop, or its resume part, ends (R134), with the state it leaves. -/
inductive UopEnd where
  /-- Done: `upc` advances. -/
  | done (s : State)
  /-- Held until the named completion. -/
  | held (h : Hold) (s : State)
  /-- `raise Err(e)`: the command ends. -/
  | error (e : Err) (s : State)
  /-- A model fault was recorded inside the uop: SEQ has no further step (R271). -/
  | stopped (s : State)
deriving DecidableEq, Repr

end Sys2Proof.Machine
end

