-- ==== Sys2Proof/Machine/Flags.lean ====
section
/-! DEFINITION. The status and configuration views and every code in them: the fields of CFG (R25), error codes
(R260), the STATUS register (R22), the CFG register (R24), and the ghost phase (R245). -/

namespace Sys2Proof.Machine

/-- The bit of CFG that holds a field (R25, R152). -/
def Field.bit : Field → Nat
  | .outputEnable => 7
  | .mode => 6
  | .scanDirection => 5
  | .stv => 4
  | .negPowerEnable => 3
  | .posPowerEnable => 2
  | .powerDisable => 1
  | .latchEnable => 0

/-- `CFG.f` (R12, R25). -/
def getField (f : Field) (cfg : Byte) : Bool := cfg.getLsbD f.bit

/-- `CFG.f <- b` (R12, R150): one bit set or cleared, the other seven unchanged. -/
def putField (f : Field) (b : Bool) (cfg : Byte) : Byte :=
  if b then cfg ||| (1#8 <<< f.bit) else cfg &&& ~~~(1#8 <<< f.bit)

/-- The code of an engine error (R260). -/
def Err.code : Err → ErrCode
  | .none => 0
  | .pulseConfig => 1
  | .channelUnavailable => 2
  | .busTransfer => 3
  | .illegalCommand => 4

/-- The encoding of the channel state in STATUS.CH (R22). -/
def Channel.code : Channel → BitVec 2
  | .uninitialized => 0
  | .idle => 1
  | .inFlight => 2

/-- STATUS (R22): BUSY at bit 0, ERR at 3:1, CH at 5:4, PTX_ACTIVE at 6, DMA_ACTIVE at 7, bits 31:8 zero. -/
def statusWord (s : State) : Word :=
  (0#24 ++ BitVec.ofBool s.dma.active ++ BitVec.ofBool s.pulse.active ++ s.pulse.ch.code ++ s.seq.err.code
    ++ BitVec.ofBool s.seq.busy : BitVec (24 + 1 + 1 + 2 + 3 + 1))

/-- The register CFG (R24): the configuration shadow in bits 7:0, the rest 0. -/
def cfgWord (s : State) : Word := s.cfg.zeroExtend 32

/-- `phase_issue` (R245). -/
def phaseIssue : Instr → Phase → Phase
  | .powerOn, _ => .poweringUp
  | .powerOff, _ => .poweringDown
  | .frameStart, ph | .frameEnd, ph | .outputRow, ph | .skip, ph | .pulse _, ph | .reclaim, ph => ph

/-- `phase_done` (R245). -/
def phaseDone : Instr → Phase → Phase
  | .powerOn, _ => .idlePowered
  | .powerOff, _ => .off
  | .frameStart, _ => .frameActive
  | .frameEnd, _ => .idlePowered
  | .outputRow, ph | .skip, ph | .pulse _, ph | .reclaim, ph => ph

end Sys2Proof.Machine
end

