-- ==== Sys2Proof/Machine/Operands.lean ====
section
/-! DEFINITION. The operands of commands (R103): which ARG registers a command reads, and how its 16-bit operands are
taken from them. -/

namespace Sys2Proof.Machine

/-- `reads(op)` (R131): OUTPUT_ROW reads ARG0, PULSE reads ARG0 and ARG1, no other command reads either (R21). -/
def argReads : Instr → List ArgReg
  | .outputRow => [.arg0]
  | .pulse _ => [.arg0, .arg1]
  | .powerOn | .powerOff | .frameStart | .frameEnd | .skip | .reclaim => []

/-- The value of an operand register (R21). -/
def argValue (r : Regs) : ArgReg → Word
  | .arg0 => r.arg0
  | .arg1 => r.arg1

/-- Has the HOST written the operand register since reset (R21)? -/
def argWritten (r : Regs) : ArgReg → Bool
  | .arg0 => r.argw0
  | .arg1 => r.argw1

/-- `reg[A] <- v; argw_A <- 1` (R74). -/
def putArg (v : Word) (r : Regs) : ArgReg → Regs
  | .arg0 => { r with arg0 := v, argw0 := true }
  | .arg1 => { r with arg1 := v, argw1 := true }

/-- The 16-bit operand in an operand register: bits `[15:0]`, unsigned, unscaled (R103). -/
def operandOf (v : Word) : Half := v.extractLsb' 0 16

/-- Some operand register that the command reads has not been written since reset (R131). -/
def someUnwritten (reads : List ArgReg) (r : Regs) : Bool := reads.any fun a => !argWritten r a

/-- Some operand register that the command reads has one of its bits `[31:16]` set (R104, R131). -/
def someOutOfRange (reads : List ArgReg) (r : Regs) : Bool := reads.any fun a => !operandWf (argValue r a)

/-- Latch one operand (R131): ARG0's into `a0`, ARG1's into `a1`. -/
def latchOperand (r : Regs) (q : Seq) : ArgReg → Seq
  | .arg0 => { q with a0 := operandOf r.arg0 }
  | .arg1 => { q with a1 := operandOf r.arg1 }

/-- Latch every operand the command reads (R131); the others keep their values. -/
def latchOperands (reads : List ArgReg) (r : Regs) (q : Seq) : Seq := reads.foldl (latchOperand r) q

end Sys2Proof.Machine
end

