-- ==== Sys2Proof/Machine/Ops.lean ====
section
/-! DEFINITION. The shared operations over the state: the row buffer's bytes, the trace, draws, the configuration
lines and the panel that watches them, model faults, the issue of a command, its completion, and its end by an engine
error. Ending by an error is the ENGINE's only exception: it saves nothing, goes nowhere and has no return (R138, R140,
R265). -/

namespace Sys2Proof.Machine

/-! ### The row buffer (R35) -/

namespace Memory

/-- What an index that is not listed reads as: no written byte, the spec's `UNDEF` (R35, R60). -/
def unlisted : Option Byte := none

/-- The written byte at an index, if there is one (R35). -/
def read : Memory → Nat → Option Byte
  | [], _ => unlisted
  | (j, b) :: rest, i => if j = i then some b else read rest i

/-- `BUF[i] <- b`, keeping the indexes strictly rising (R74). -/
def write : Memory → Nat → Byte → Memory
  | [], i, b => [(i, b)]
  | (j, c) :: rest, i, b =>
    if i < j then (i, b) :: (j, c) :: rest
    else if i = j then (i, b) :: rest
    else (j, c) :: write rest i b

/-- The canonical form: indexes strictly rising. No entry can read as an unlisted index does, since an entry holds a
byte and an unlisted index none. -/
def wf : Memory → Bool
  | [] => true
  | (i, _) :: rest => (rest.all fun c => i < c.1) && wf rest

/-- Every index lies in a buffer of `n` bytes (R35, R72). -/
def within (n : Nat) (m : Memory) : Bool := m.all fun c => c.1 < n

end Memory

/-! ### Trace, model faults (R50, R46) -/

/-- `emit(e)` (R12). -/
def emit (e : Event) (s : State) : State := s.setTrace (s.trace ++ [e])

/-- `fault MF(k)` (R12, R270): record a model fault; recording one again changes nothing. -/
def recordFault (k : ModelFault) (s : State) : State :=
  if k ∈ s.faults then s else s.setFaults (s.faults ++ [k])

/-! ### Draws (R12): the value the next draw of a kind takes, and the state with that draw taken -/

/-- One draw, not supplied by the state, is taken. -/
def Draws.count (d : Draws) : Draws := { d with drawn := d.drawn + 1 }

/-- The pulse-train peripheral's next answer. -/
def nextAnswer (s : State) : Answer := s.draws.answers.headD (Config.freeAnswer s.draws.drawn)

def spendAnswer (s : State) : State :=
  s.setDraws (match s.draws.answers with
    | _ :: rest => { s.draws with answers := rest }
    | [] => s.draws.count)

/-- The next owner of a channel after a failure. -/
def nextOwner (s : State) : Owner := s.draws.owners.headD (Config.freeOwner s.draws.drawn)

def spendOwner (s : State) : State :=
  s.setDraws (match s.draws.owners with
    | _ :: rest => { s.draws with owners := rest }
    | [] => s.draws.count)

/-- The next outcome of a row transfer. -/
def nextBusResult (s : State) : BusResult := s.draws.busResults.headD (Config.freeBusResult s.draws.drawn)

def spendBusResult (s : State) : State :=
  s.setDraws (match s.draws.busResults with
    | _ :: rest => { s.draws with busResults := rest }
    | [] => s.draws.count)

/-- The next value of a byte that nothing has written. -/
def nextByte (s : State) : Byte := s.draws.bytes.headD (Config.freeByte s.draws.drawn)

def spendByte (s : State) : State :=
  s.setDraws (match s.draws.bytes with
    | _ :: rest => { s.draws with bytes := rest }
    | [] => s.draws.count)

/-- The next value that a HOST read of an unwritten ARG register gives. -/
def nextWord (s : State) : Word := s.draws.words.headD (Config.freeWord s.draws.drawn)

def spendWord (s : State) : State :=
  s.setDraws (match s.draws.words with
    | _ :: rest => { s.draws with words := rest }
    | [] => s.draws.count)

/-- The agent whose turn is next, where more than one could move. -/
def nextTurn (s : State) : Agent := s.draws.turns.headD (Config.freeTurn s.draws.drawn)

def spendTurn (s : State) : State :=
  s.setDraws (match s.draws.turns with
    | _ :: rest => { s.draws with turns := rest }
    | [] => s.draws.count)

/-! ### Configuration lines and the panel (R40, R41, R43) -/

/-- A driven level. -/
def Level.ofBool (b : Bool) : Level := if b then .high else .low

/-- Eight known bits. -/
def PanelByte.ofByte (v : Byte) : PanelByte where
  b7 := .ofBool (v.getLsbD 7)
  b6 := .ofBool (v.getLsbD 6)
  b5 := .ofBool (v.getLsbD 5)
  b4 := .ofBool (v.getLsbD 4)
  b3 := .ofBool (v.getLsbD 3)
  b2 := .ofBool (v.getLsbD 2)
  b1 := .ofBool (v.getLsbD 1)
  b0 := .ofBool (v.getLsbD 0)

/-- `{SR[6:0], L_DATA}` (R43), an unknown level entering as an unknown bit. -/
def PanelByte.shiftIn (x : PanelByte) (l : Level) : PanelByte :=
  ⟨x.b6, x.b5, x.b4, x.b3, x.b2, x.b1, x.b0, l⟩

/-- The level of a line after a level write. -/
def Lines.drive (ls : Lines) (line : Line) (b : Bool) : Lines :=
  match line with
  | .data => { ls with data := .ofBool b }
  | .clk => { ls with clk := .ofBool b }
  | .str => { ls with str := .ofBool b }

/-- What PANEL does at a level write, `ls` being the levels before it (R43): it samples DATA at a rising edge of CLK and
latches at a rising edge of STR. -/
def Panel.observe (p : Panel) (ls : Lines) (line : Line) (b : Bool) : Panel :=
  match line with
  | .data => p
  | .clk => if b && ls.clk == .low then { p with sr := p.sr.shiftIn ls.data } else p
  | .str => if b && ls.str == .low then { p with latched := p.sr } else p

/-- One GPIO level write (R41): its event, the line's level, and what the panel makes of it. -/
def gpio (line : Line) (b : Bool) (s : State) : State :=
  ((emit (.gpio line b) s).setPanel (s.panel.observe s.lines line b)).setLines (s.lines.drive line b)

/-! ### The end of a command (R136, R138) -/

/-- `raise Err(e)` (R138, R262): the command ends with code `e`, SEQ goes idle, the phase is unknown; every effect of
the uops already done stays. The one operation by which a running command fails. -/
def raiseErr (e : Err) (s : State) : State :=
  ((emit (.done e) s).setSeq { s.seq with busy := false, hold := .none, err := e }).setPhase .unknown

/-- The end of an illegal command (R131, R132): `ERR <- 4` and `Done(4)`. -/
def endIllegal (s : State) : State :=
  (emit (.done .illegalCommand) s).setSeq { s.seq with err := .illegalCommand }

/-- A command completes (R136): `Done(0)`, SEQ goes idle, the phase moves on; `ERR` is left as it is. -/
def complete (i : Instr) (s : State) : State :=
  ((emit (.done .none) s).setSeq { s.seq with busy := false }).setPhase (phaseDone i s.phase)

/-! ### Issue (R130, R131) -/

/-- The first steps of issue (R131): latch `op` and `w`, emit `Cmd(op, w)`, clear `ERR`. -/
def latchCommand (op : Nibble) (w : Bool) (s : State) : State :=
  (emit (.cmd op w) s).setSeq { s.seq with op := op, w := w, err := .none }

/-- The last steps of issue (R131): operands latched, SEQ busy at uop 0 with no hold, the ghost phase moved. -/
def beginCommand (i : Instr) (s : State) : State :=
  (s.setSeq { latchOperands (argReads i) s.regs s.seq with busy := true, upc := 0, hold := .none }).setPhase
    (phaseIssue i s.phase)

/-- `issue(v)` for a word that decodes to `i` (R130, R131). `present` says whether the command exists in this
implementation (R105). -/
def issue (i : Instr) (present : Bool) (s : State) : State :=
  if s.seq.busy then recordFault .cmdBusy s
  else
    let t := latchCommand (opOf i) (waitOf i) s
    if !present then endIllegal t
    else if someUnwritten (argReads i) t.regs then recordFault .argUnwritten t
    else if someOutOfRange (argReads i) t.regs then endIllegal t
    else beginCommand i t

/-- `issue(v)` for a word that decodes to no command (R130, R131, R104). -/
def issueIllegal (v : Word) (s : State) : State :=
  if s.seq.busy then recordFault .cmdBusy s
  else endIllegal (latchCommand (opField v) (waitField v) s)

end Sys2Proof.Machine
end

