-- ==== Sys2Proof/Machine/PanelSequences.lean ====
section
/-! DEFINITION. The frame and power sequencer (spec/44_panel_sequences.md): POWER_ON, POWER_OFF, FRAME_START and
FRAME_END. Their order is load-bearing (R231): no uop may be moved or merged. -/

namespace Sys2Proof.Machine

/-- POWER_ON's uop list (R230). -/
def powerOnUops (p : Params) : List Uop :=
  [.setf .scanDirection true, .shift, .delay p.dPon0,
   .setf .powerDisable false, .shift, .delay p.dPon1,
   .setf .negPowerEnable true, .shift, .delay p.dPon2,
   .setf .posPowerEnable true, .shift, .delay p.dPon3,
   .setf .stv true, .shift, .delay p.dPon4]

/-- POWER_OFF's uop list (R232). -/
def powerOffUops (p : Params) : List Uop :=
  [.setf .posPowerEnable false, .shift, .delay p.dPoff1,
   .setf .negPowerEnable false, .shift, .delay p.dPoff2,
   .setf .powerDisable true, .shift, .delay p.dPoff3,
   .setf .stv false, .shift, .delay p.dPoff4]

/-- FRAME_START's uop list (R234): every pulse is waited. -/
def frameStartUops (p : Params) : List Uop :=
  [.setf .mode true, .shift, .pulse p.fsAH p.fsAL true,
   .setf .stv false, .shift, .pulse p.fsLongH p.fsLongL true,
   .setf .stv true, .shift,
   .pulse p.fsPrimeH p.fsPrimeL true, .pulse p.fsPrimeH p.fsPrimeL true,
   .pulse p.fsPrimeH p.fsPrimeL true, .pulse p.fsPrimeH p.fsPrimeL true,
   .setf .outputEnable true, .shift, .pulse p.fsZH p.fsZL true]

/-- FRAME_END's uop list (R236): both pulses are waited (D19). -/
def frameEndUops (p : Params) : List Uop :=
  [.setf .outputEnable false, .shift, .setf .mode true, .shift,
   .pulse p.feH p.feL true, .pulse p.feH p.feL true]

/-- POWER_ON (R230): no operand. SEQ then runs `powerOnUops`. -/
def execPowerOn (s : State) : Result := .next (issue .powerOn true s)

/-- POWER_OFF (R232): no operand. SEQ then runs `powerOffUops`. -/
def execPowerOff (s : State) : Result := .next (issue .powerOff true s)

/-- FRAME_START (R234): no operand. SEQ then runs `frameStartUops`. -/
def execFrameStart (s : State) : Result := .next (issue .frameStart true s)

/-- FRAME_END (R236): no operand. SEQ then runs `frameEndUops`. -/
def execFrameEnd (s : State) : Result := .next (issue .frameEnd true s)

end Sys2Proof.Machine
end

