-- ==== Sys2Proof/Machine/Pulse.lean ====
section
/-! DEFINITION. The timed pulse-train controller (spec/42_pulse.md): waveforms, the PULSE and RECLAIM uops, the PTX
agent's completion step, and the commands PULSE and RECLAIM. -/

namespace Sys2Proof.Machine

/-- `waveform(h, l)` (R171): the high and the low ticks of the two segments. -/
def waveform (h l : Half) : Half × Half := if 0 < h then (h, l) else (l, 0)

/-- The channel state after a drawn owner (R177, R178, R186). -/
def Owner.channel : Owner → Channel
  | .idle => .idle
  | .inFlight => .inFlight

/-- A successful initialization (R176): the channel is Idle and its line at level 0. -/
def initChannel (s : State) : State := s.setPulse { s.pulse with ch := .idle, line := .low }

/-- A failed submission or completion (R177, R178, R186): the channel's owner is a draw. -/
def drawOwner (s : State) : State :=
  spendOwner (s.setPulse { s.pulse with ch := Owner.channel (nextOwner s) })

/-- A successful submission (R177): the channel is consumed, PTX plays the waveform. -/
def startPulse (h l : Half) (s : State) : State :=
  emit (.pulseTx (waveform h l).1 (waveform h l).2)
    (s.setPulse { ch := .inFlight, active := true, wf := some (waveform h l), line := .playing })

/-- Submission to an Idle channel (R177), then the wait of a waited pulse (R178) or the end of the uop (R179). -/
def submitPulse (h l : Half) (wt : Bool) (s : State) : UopEnd :=
  match nextAnswer s with
  | .fail => .error .pulseConfig (drawOwner (spendAnswer s))
  | .ok =>
    if wt then .held .pulseDone (startPulse h l (spendAnswer s))
    else .done (startPulse h l (spendAnswer s))

/-- `PULSE h, l, wt` (R182), its checks in the order of R263(b): the duration range (R174), the channel's
availability (R175), lazy initialization (R176), submission (R177). -/
def pulseUop (h l : Half) (wt : Bool) (s : State) : UopEnd :=
  if s.params.pulseMaxTicks < h || s.params.pulseMaxTicks < l then .stopped (recordFault .durRange s)
  else
    match s.pulse.ch with
    | .inFlight => .error .channelUnavailable s
    | .uninitialized =>
      match nextAnswer s with
      | .fail => .error .pulseConfig (spendAnswer s)
      | .ok => submitPulse h l wt (initChannel (spendAnswer s))
    | .idle => submitPulse h l wt s

/-- The completion answer (R178, R186): OK returns the channel, FAIL draws its owner and raises `Err(1)`. -/
def takeCompletion (s : State) : UopEnd :=
  match nextAnswer s with
  | .ok => .done ((spendAnswer s).setPulse { s.pulse with ch := .idle })
  | .fail => .error .pulseConfig (drawOwner (spendAnswer s))

/-- The resume part of a waited PULSE uop (R178, R182). -/
def resumePulse (s : State) : UopEnd := takeCompletion s

/-- The resume part of a RECLAIM uop (R186). -/
def resumeReclaim (s : State) : UopEnd := takeCompletion s

/-- `RECLAIM` (R186): nothing to return unless the channel is InFlight; then wait for PTX, or resume in this step. -/
def reclaimUop (s : State) : UopEnd :=
  if s.pulse.ch ≠ .inFlight then .done s
  else if s.pulse.active then .held .pulseDone s
  else resumeReclaim s

/-- PTX's completion step (R180): the line returns to level 0; the channel's ownership does not change. -/
def ptxComplete (s : State) : State :=
  emit .pulseDone (s.setPulse { s.pulse with active := false, wf := none, line := .low })

/-- PULSE's uop list (R185). -/
def pulseUops (a0 a1 : Half) (w : Bool) : List Uop := [.pulse a0 a1 w]

/-- RECLAIM's uop list (R187). -/
def reclaimUops : List Uop := [.reclaim]

/-- PULSE (R185): both ARG registers are read. SEQ then runs `pulseUops` with the latched operands and wait flag. -/
def execPulse (w : Bool) (s : State) : Result := .next (issue (.pulse w) true s)

/-- RECLAIM (R187): legal only where the implementation has it (R105). SEQ then runs `reclaimUops`. -/
def execReclaim (s : State) : Result := .next (issue .reclaim s.params.reclaimPresent s)

end Sys2Proof.Machine
end

