-- ==== Sys2Proof/Machine/Row.lean ====
section
/-! DEFINITION. The row-transfer sequencer (spec/43_row_transfer.md): the DMA_ROW uop, the DMA agent's completion step,
and the commands OUTPUT_ROW and SKIP. -/

namespace Sys2Proof.Machine

/-- Byte `i` of the row as it is sent (R200): the written byte, or a drawn one if nothing has written it. -/
def rowByte (i : Nat) (s : State) : Byte := (Memory.read s.buf i).getD (nextByte s)

/-- The state after byte `i` is sent: a draw is taken if nothing has written the byte. -/
def spendRowByte (i : Nat) (s : State) : State :=
  match Memory.read s.buf i with
  | some _ => s
  | none => spendByte s

/-- The `n` row bytes from index `i` on, in index order (R200, R80). -/
def rowBytes : Nat → Nat → State → List Byte
  | 0, _, _ => []
  | n + 1, i, s => rowByte i s :: rowBytes n (i + 1) (spendRowByte i s)

/-- The state after those bytes are sent. -/
def spendRow : Nat → Nat → State → State
  | 0, _, s => s
  | n + 1, i, s => spendRow n (i + 1) (spendRowByte i s)

/-- `DMA_ROW` (R200): the whole row buffer goes to the bus, and SEQ waits for the transfer. -/
def dmaRowUop (s : State) : UopEnd :=
  let n := s.params.bytesPerLine
  .held .dmaDone
    (emit (.dmaTx (rowBytes n 0 s)) ((spendRow n 0 s).setDma { s.dma with active := true }))

/-- The resume part of DMA_ROW (R200): anything but OK is a bus-transfer error. -/
def resumeDma (s : State) : UopEnd :=
  if s.dma.result = some .ok then .done s else .error .busTransfer s

/-- DMA's completion step (R201): the transfer's outcome is a draw. -/
def dmaComplete (s : State) : State :=
  emit (.dmaDone (nextBusResult s))
    ((spendBusResult s).setDma { active := false, result := some (nextBusResult s) })

/-- OUTPUT_ROW's uop list (R205): the latch toggle, each step followed by a SHIFT, then the pulse, never waited, then
the row. -/
def outputRowUops (p : Params) (a0 : Half) : List Uop :=
  [.setf .latchEnable true, .shift, .setf .latchEnable false, .shift, .pulse a0 p.rowLow false, .dmaRow]

/-- SKIP's uop list (R210). -/
def skipUops (p : Params) : List Uop := [.pulse p.skipH p.skipL p.skipWait]

/-- OUTPUT_ROW (R205): ARG0 is read. SEQ then runs `outputRowUops` with the latched output time. -/
def execOutputRow (s : State) : Result := .next (issue .outputRow true s)

/-- SKIP (R210): no operand. SEQ then runs `skipUops`. -/
def execSkip (s : State) : Result := .next (issue .skip true s)

end Sys2Proof.Machine
end

