-- ==== Sys2Proof/Machine/Dispatch.lean ====
section
/-! DEFINITION. The dispatch of host commands to their meanings: one arm per constructor of Instr. A meaning is what
writing the command's word to CMD does (spec/40_command_engine.md R130, R131); SEQ then plays the command's uop list,
which stands beside its meaning. -/

namespace Sys2Proof.Machine

def exec (i : Instr) (s : State) : Host.Outcome State Fault Refusal :=
  match i with
  | .powerOn => Sys2Proof.Machine.execPowerOn s
  | .powerOff => Sys2Proof.Machine.execPowerOff s
  | .frameStart => Sys2Proof.Machine.execFrameStart s
  | .frameEnd => Sys2Proof.Machine.execFrameEnd s
  | .outputRow => Sys2Proof.Machine.execOutputRow s
  | .skip => Sys2Proof.Machine.execSkip s
  | .pulse w => Sys2Proof.Machine.execPulse w s
  | .reclaim => Sys2Proof.Machine.execReclaim s

end Sys2Proof.Machine
end

