-- ==== Sys2Proof/Machine/HostWindow.lean ====
section
/-! DEFINITION. The host window (spec/20_memory.md): what each HOST access does. A faulting access records its model
fault and changes nothing else (R75, R271). Where an access breaks several rules at once, the first that applies in
this order is recorded: alignment, the end of the window, the width of the block, the register's access right or the
busy buffer (DESIGN CHOICE, notes/assumptions/7). -/

namespace Sys2Proof.Machine

/-- What an access reaches (R71, R72). -/
inductive Target where
  /-- A register of the register block, by its offset. -/
  | register (off : Nat)
  /-- Byte `i` of the row buffer. -/
  | bufByte (i : Nat)
  /-- Nothing: the access is a model fault. -/
  | bad (k : ModelFault)
deriving DecidableEq, Repr

/-- The offset of the row-buffer window (R72). -/
def bufBase : Nat := 0x100

/-- The target of an access of `width` bytes at `off` (R71, R72, R73, R75). -/
def target (p : Params) (off : Offset) (width : Nat) : Target :=
  if width = 0 ∨ off.toNat % width ≠ 0 then .bad .width
  else if off.toNat < bufBase then
    if width = 4 then .register off.toNat else .bad .width
  else if bufBase + p.bytesPerLine ≤ off.toNat then .bad .unmapped
  else if width = 1 then .bufByte (off.toNat - bufBase)
  else .bad .width

/-- A HOST write of `v` to CMD (R23, R130): the word is decoded at once and its command issued. -/
def hostCommand (v : Word) (s : State) : Result :=
  match decodeWord v with
  | .ok i => exec i s
  | .error _ => .next (issueIllegal v s)

/-- A HOST write to a register (R74). -/
def writeRegister (off : Nat) (v : Word) (s : State) : Result :=
  match off with
  | 0x000 => hostCommand v s
  | 0x004 => .next (s.setRegs (putArg v s.regs .arg0))
  | 0x008 => .next (s.setRegs (putArg v s.regs .arg1))
  | _ => .next (recordFault .access s)

/-- A HOST write of a byte of the row buffer (R74, R76). -/
def writeBuf (i : Nat) (b : Byte) (s : State) : State :=
  if s.seq.busy then recordFault .busyWrite s else s.setBuf (Memory.write s.buf i b)

/-- `MemWrite(off, width, v)` (R74). -/
def hostWrite (off : Offset) (width : Nat) (v : Word) (s : State) : Result :=
  match target s.params off width with
  | .register o => writeRegister o v s
  | .bufByte i => .next (writeBuf i (v.extractLsb' 0 8) s)
  | .bad k => .next (recordFault k s)

/-- The HOST has read a value: an observation of its program (R107). -/
def observe (off : Offset) (width : Nat) (v : Word) (s : State) : State :=
  s.setHost { s.host with seen := s.host.seen ++ [⟨off, width, v⟩] }

/-- A HOST read of an operand register: its value, or a drawn one if nothing has written it (R74). -/
def readArg (a : ArgReg) (off : Offset) (s : State) : State :=
  if argWritten s.regs a then observe off 4 (argValue s.regs a) s
  else observe off 4 (nextWord s) (spendWord s)

/-- A HOST read of a register (R74). -/
def readRegister (o : Nat) (off : Offset) (s : State) : State :=
  match o with
  | 0x004 => readArg .arg0 off s
  | 0x008 => readArg .arg1 off s
  | 0x00C => observe off 4 (statusWord s) s
  | 0x010 => observe off 4 (cfgWord s) s
  | _ => recordFault .access s

/-- A HOST read of a byte of the row buffer: its value, or a drawn one if nothing has written it (R74). -/
def readBuf (i : Nat) (off : Offset) (s : State) : State :=
  match Memory.read s.buf i with
  | some b => observe off 1 (b.zeroExtend 32) s
  | none => observe off 1 ((nextByte s).zeroExtend 32) (spendByte s)

/-- `MemRead(off, width)` (R74). -/
def hostRead (off : Offset) (width : Nat) (s : State) : State :=
  match target s.params off width with
  | .register o => readRegister o off s
  | .bufByte i => readBuf i off s
  | .bad k => recordFault k s

/-- The offset of STATUS (R71). -/
def statusOffset : Offset := 0x00C

/-- One HOST statement (R107, R108). `WAIT_IDLE` is taken only when `busy = 0` and then reads STATUS. -/
def hostAccess (a : Access) (s : State) : Result :=
  match a with
  | .write off width v => hostWrite off width v s
  | .read off width => .next (hostRead off width s)
  | .waitIdle => .next (hostRead statusOffset 4 s)

/-- One step of the HOST: the first statement of its program, taken off the program. -/
def hostStep (s : State) : Result :=
  match s.host.program with
  | [] => .next s
  | a :: rest => hostAccess a (s.setHost { s.host with program := rest })

end Sys2Proof.Machine
end

