-- ==== Sys2Proof/Machine/HostProgram.lean ====
section
/-! DEFINITION. The host assembly (spec/30_encoding.md R107, R108): statements and pseudo-instructions, and the HOST
accesses they expand to. -/

namespace Sys2Proof.Machine

/-- A statement of the host assembly (R107, R108). -/
inductive Asm where
  /-- `SW off, imm32`. -/
  | sw (off : Offset) (v : Word)
  /-- `SB off, imm8`. -/
  | sb (off : Offset) (v : Byte)
  /-- `LW off`. -/
  | lw (off : Offset)
  /-- `LB off`. -/
  | lb (off : Offset)
  /-- `WAIT_IDLE`. -/
  | waitIdle
  /-- `ISSUE <mnemonic>`. -/
  | issue (i : Instr)
  /-- `DO_PULSE h, l, wait` or `nowait`. -/
  | doPulse (h l : Word) (wait : Bool)
  /-- `DO_OUTPUT_ROW t`. -/
  | doOutputRow (t : Word)
  /-- `DO <mnemonic>`. -/
  | doCmd (i : Instr)
  /-- `SET_BUFFER [b_0, …]`. -/
  | setBuffer (data : List Byte)
deriving DecidableEq, Repr

/-- The symbolic offsets of R107. -/
def cmdOffset : Offset := 0x000
def arg0Offset : Offset := 0x004
def arg1Offset : Offset := 0x008
def cfgOffset : Offset := 0x010
def bufOffset (i : Nat) : Offset := BitVec.ofNat 16 (bufBase + i)

/-- `SW`: a 4-byte write. -/
def storeWord (off : Offset) (v : Word) : Access := .write off 4 v

/-- `SB`: a 1-byte write. -/
def storeByte (off : Offset) (b : Byte) : Access := .write off 1 (b.zeroExtend 32)

/-- `ISSUE i`: the command's word to CMD. -/
def issueWord (i : Instr) : Access := storeWord cmdOffset (encode i)

/-- The byte writes of SET_BUFFER from index `i` on (R108, R215). -/
def copyBytes : Nat → List Byte → List Access
  | _, [] => []
  | i, b :: rest => storeByte (bufOffset i) b :: copyBytes (i + 1) rest

/-- Which statements the assembler accepts (R108). -/
def Asm.wf (p : Params) : Asm → Bool
  | .setBuffer data => bufferCopyWf p data
  | .doCmd i => doWf i
  | .sw _ _ | .sb _ _ | .lw _ | .lb _ | .waitIdle | .issue _ | .doPulse _ _ _ | .doOutputRow _ => true

/-- A statement's expansion (R107, R108); none where the assembler refuses it. -/
def Asm.expand (p : Params) (a : Asm) : Option (List Access) :=
  if a.wf p then
    some <| match a with
      | .sw off v => [storeWord off v]
      | .sb off b => [storeByte off b]
      | .lw off => [.read off 4]
      | .lb off => [.read off 1]
      | .waitIdle => [.waitIdle]
      | .issue i => [issueWord i]
      | .doPulse h l w => [storeWord arg0Offset h, storeWord arg1Offset l, issueWord (.pulse w), .waitIdle]
      | .doOutputRow t => [storeWord arg0Offset t, issueWord .outputRow, .waitIdle]
      | .doCmd i => [issueWord i, .waitIdle]
      | .setBuffer data => copyBytes 0 data
  else none

/-- A program's expansion; none where the assembler refuses a statement. -/
def expandAll (p : Params) : List Asm → Option (List Access)
  | [] => some []
  | a :: rest =>
    match a.expand p, expandAll p rest with
    | some xs, some ys => some (xs ++ ys)
    | _, _ => none

end Sys2Proof.Machine
end

