-- ==== Sys2Proof/Machine/ConfigShift.lean ====
section
/-! DEFINITION. The configuration-shift serializer (spec/41_config_shift.md): the SETF and SHIFT uops; and the DELAY
uop of spec/40_command_engine.md R137. None of them can fail or hold. -/

namespace Sys2Proof.Machine

/-- `SETF f, b` (R150): one field of CFG; no event, no line, nothing at the panel. -/
def setfUop (f : Field) (b : Bool) (s : State) : State := s.setCfg (putField f b s.cfg)

/-- One bit of a SHIFT (R151): clock low, data to the bit's level, clock high (the sampling edge). -/
def shiftBit (b : Bool) (s : State) : State := gpio .clk true (gpio .data b (gpio .clk false s))

/-- The bits of CFG in the order of transmission (R151, R152): bit 7 first, bit 0 last. -/
def shiftOrder (cfg : Byte) : List Bool := [7, 6, 5, 4, 3, 2, 1, 0].map fun k => cfg.getLsbD k

/-- `SHIFT` (R151): strobe low, the eight bits of CFG, strobe high. -/
def shiftUop (s : State) : State :=
  gpio .str true ((shiftOrder s.cfg).foldl (fun t b => shiftBit b t) (gpio .str false s))

/-- `DELAY n` (R137): `Wait(n)`, and nothing at all for `n = 0`. -/
def delayUop (n : Word) (s : State) : State := if n = 0 then s else emit (.wait n) s

/-- The events of one bit of a SHIFT (R151). -/
def shiftBitEvents (b : Bool) : List Event := [.gpio .clk false, .gpio .data b, .gpio .clk true]

/-- `S(v)` of spec/95_test_vectors.md §1: the 26 events of a SHIFT with `CFG = v` (R151, R154). -/
def shiftEvents (v : Byte) : List Event :=
  .gpio .str false :: ((shiftOrder v).flatMap shiftBitEvents ++ [.gpio .str true])

/-- The event of a `DELAY n` (R137): none for 0. -/
def delayEvents (n : Word) : List Event := if n = 0 then [] else [.wait n]

end Sys2Proof.Machine
end

