-- ==== Sys2Proof/Machine/Sequencer.lean ====
section
/-! DEFINITION. SEQ (spec/40_command_engine.md §2): which uop list a command has, what each uop does, and one step of
the sequencer. -/

namespace Sys2Proof.Machine

/-- `UOPS(op, w, a0, a1)` (R133): every command's list, fixed in the hardware. -/
def uopsOf (p : Params) (a0 a1 : Half) : Instr → List Uop
  | .powerOn => powerOnUops p
  | .powerOff => powerOffUops p
  | .frameStart => frameStartUops p
  | .frameEnd => frameEndUops p
  | .outputRow => outputRowUops p a0
  | .skip => skipUops p
  | .pulse w => pulseUops a0 a1 w
  | .reclaim => reclaimUops

/-- What a uop does when SEQ reaches it (R133, R134). -/
def runUop (u : Uop) (s : State) : UopEnd :=
  match u with
  | .setf f b => .done (setfUop f b s)
  | .shift => .done (shiftUop s)
  | .delay n => .done (delayUop n s)
  | .pulse h l wt => pulseUop h l wt s
  | .reclaim => reclaimUop s
  | .dmaRow => dmaRowUop s

/-- The resume part of a held uop (R135); SETF, SHIFT and DELAY never hold and have none. -/
def resumeUop (u : Uop) (s : State) : Option UopEnd :=
  match u with
  | .pulse _ _ _ => some (resumePulse s)
  | .reclaim => some (resumeReclaim s)
  | .dmaRow => some (resumeDma s)
  | .setf _ _ | .shift | .delay _ => none

/-- The command SEQ executes, from the latched opcode and wait flag (R30, R101). -/
def currentCommand (s : State) : Option Instr :=
  match instrOf s.seq.op s.seq.w with
  | .ok i => some i
  | .error _ => none

/-- The uop list SEQ works through (R133). -/
def currentUops (s : State) : List Uop :=
  match currentCommand s with
  | some i => uopsOf s.params s.seq.a0 s.seq.a1 i
  | none => []

/-- The uop SEQ has reached (R134). -/
def currentUop (s : State) : Option Uop := (currentUops s)[s.seq.upc]?

/-- `upc <- upc + 1` (R134). -/
def advance (s : State) : State := s.setSeq { s.seq with upc := s.seq.upc + 1 }

/-- `hold <- h`. -/
def setHold (h : Hold) (s : State) : State := s.setSeq { s.seq with hold := h }

/-- What follows the end of a uop of command `i`, whose list has `n` uops (R134, R136, R138). -/
def endUop (i : Instr) (n : Nat) : UopEnd → State
  | .done s => if s.seq.upc + 1 = n then complete i (advance s) else advance s
  | .held h s => setHold h s
  | .error e s => raiseErr e s
  | .stopped s => s

/-- One step of SEQ, taken when it is enabled (R134, R135): the uop at `upc`, or the resume part of the uop it holds
at. -/
def seqStep (s : State) : Result :=
  match currentCommand s, currentUop s with
  | some i, some u =>
    let n := (uopsOf s.params s.seq.a0 s.seq.a1 i).length
    match s.seq.hold with
    | .none => .next (endUop i n (runUop u s))
    | .pulseDone | .dmaDone =>
      match resumeUop u (setHold .none s) with
      | some r => .next (endUop i n r)
      | none => .fault .noUop
  | _, _ => .fault .noUop

end Sys2Proof.Machine
end

