-- ==== Sys2Proof/Machine/Schedule.lean ====
section
/-! DEFINITION. Which agent moves next (spec/00_scope.md R7, R13; spec/20_memory.md R81). Every interleaving of enabled
steps is a run. Where HOST alone or SEQ alone is enabled it moves; where a choice is open, the agent is a draw, and a
turn drawn for an agent that has no enabled step passes with nothing done, so that PTX and DMA are given no fairness
(R143). -/

namespace Sys2Proof.Machine

/-- What SEQ waits for has come (R135). -/
def holdLifted (s : State) : Bool :=
  match s.seq.hold with
  | .none => true
  | .pulseDone => !s.pulse.active
  | .dmaDone => !s.dma.active

/-- The HOST's next statement can be taken: every statement but `WAIT_IDLE` at once, `WAIT_IDLE` when `busy = 0`
(R108). -/
def hostEnabled (s : State) : Bool :=
  match s.host.program with
  | [] => false
  | .waitIdle :: _ => !s.seq.busy
  | .write _ _ _ :: _ | .read _ _ :: _ => true

/-- Whether an agent has an enabled step: SEQ by R134, R135 and R271 (a fault inside a uop leaves it none), PTX by
R180, DMA by R201. -/
def enabled (s : State) : Agent → Bool
  | .host => hostEnabled s
  | .seq => s.seq.busy && !s.faults.contains .durRange && holdLifted s
  | .ptx => s.pulse.active
  | .dma => s.dma.active

/-- The agents that have an enabled step. -/
def enabledAgents (s : State) : List Agent := [.host, .seq, .ptx, .dma].filter (enabled s)

/-- One step of an agent (R13). -/
def agentStep (a : Agent) (s : State) : Result :=
  match a with
  | .host => hostStep s
  | .seq => seqStep s
  | .ptx => .next (ptxComplete s)
  | .dma => .next (dmaComplete s)

/-- A step in which no agent has an enabled step: the ENGINE is idle and waits for the HOST (R301), or, with a command
running, the run is stuck (R271). -/
def noAgentStep (s : State) : Result := if s.seq.busy then .fault .stuck else .next s

/-- A step whose agent is drawn. -/
def drawnStep (s : State) : Result :=
  if enabled s (nextTurn s) then agentStep (nextTurn s) (spendTurn s) else .next (spendTurn s)

/-- One step of the model (R13, R81). -/
def scheduledStep (s : State) : Result :=
  match enabledAgents s with
  | [] => noAgentStep s
  | [.host] => hostStep s
  | [.seq] => seqStep s
  | _ => drawnStep s

end Sys2Proof.Machine
end

