-- ==== Sys2Proof/Machine/Fetch.lean ====
section
/-! DEFINITION. How a command word comes to be the next thing the machine runs: as the HOST's next statement, a 4-byte
write to CMD (R23, R100). -/

namespace Sys2Proof.Machine

/-- The HOST takes the next turn, where a turn is drawn. -/
def giveHostTurn (s : State) : State :=
  match enabledAgents s with
  | [.host] => s
  | _ => s.setDraws { s.draws with turns := .host :: s.draws.turns }

/-- `SW CMD, v` put before the rest of the HOST's program. -/
def queueCommand (v : Word) (s : State) : State :=
  s.setHost { s.host with program := storeWord cmdOffset v :: s.host.program }

/-- The state whose next step writes the word `v` to CMD. -/
def placeCommand (v : Word) (s : State) : State := giveHostTurn (queueCommand v s)

end Sys2Proof.Machine
end

