-- ==== Sys2Proof/Machine/Step.lean ====
section
/-! DEFINITION. The machine's step, and the placing of a command word for it. Both only call what Machine/Schedule.lean
and Machine/Fetch.lean define. -/

namespace Sys2Proof.Machine

/-- One step of one agent (R13). -/
def step (s : State) : Host.Outcome State Fault Refusal := scheduledStep s

/-- `s` with the command word `w` (of `nbits` bits) as the HOST's next statement, so that the very next step runs it. -/
def State.withFetchWord (s : State) (nbits w : Nat) : State := placeCommand (BitVec.ofNat 32 (w % 2 ^ nbits)) s

end Sys2Proof.Machine
end

