-- ==== Sys2Proof/Safety.lean ====
section
/-! DEFINITION. What counts as a safe run and what claims take as premises: a final state (R142), no model fault (R271),
conforming commands (R246), completing peripherals (R143), and the invariant of the reachable states. -/

namespace Sys2Proof.Machine

/-- "no model fault recorded" (R271): the premise of every claim about a run. -/
def State.safe (s : State) : Bool := s.faults.isEmpty

/-- A final state (R142). -/
def State.final (s : State) : Bool :=
  s.host.program.isEmpty && !s.seq.busy && !s.pulse.active && !s.dma.active && s.safe

/-- A command is conforming when it is issued in a phase that R246 gives. The ENGINE does not check it. -/
def conforming : Instr → Phase → Bool
  | .powerOn, ph => ph = .off
  | .frameStart, ph => ph = .idlePowered
  | .outputRow, ph | .skip, ph | .frameEnd, ph => ph = .frameActive
  | .powerOff, ph => ph = .idlePowered || ph = .unknown
  | .pulse _, _ | .reclaim, _ => true

/-- `PERIPH_COMPLETES` (R143), the named assumption of termination claims, of the run from `s`: every submitted
waveform and every submitted row eventually completes. -/
def PeriphCompletes (s : State) : Prop :=
  ∀ n t, Host.Core.run Sys2Proof.core n s = .next t →
    (t.pulse.active = true → ∃ m u, Host.Core.run Sys2Proof.core m t = .next u ∧ u.pulse.active = false) ∧
    (t.dma.active = true → ∃ m u, Host.Core.run Sys2Proof.core m t = .next u ∧ u.dma.active = false)

/-! ### Runs -/

/-- `n` steps of the machine lead from `s` to `t`. -/
abbrev Runs (n : Nat) (s t : State) : Prop := Host.Core.run Sys2Proof.core n s = .next t

/-- Nothing but SEQ can move, now or once a command is issued: the HOST's program is over, PTX and DMA are at rest, and
no duration fault has stopped SEQ. -/
def quiet (s : State) : Bool :=
  s.host.program.isEmpty && !s.pulse.active && !s.dma.active && !s.faults.contains .durRange

/-- The turns a run of `n` steps of SEQ takes: none is drawn while only SEQ can move, one a step while PTX plays beside
it. -/
def seqTurns (playing : Bool) (n : Nat) : List Agent := if playing then List.replicate n .seq else []

/-- How many answers of the pulse-train peripheral a run takes that needs `n` once the channel is initialized: one
more where the first PULSE uop initializes it (R176). -/
def answersNeeded (ch : Channel) (n : Nat) : Nat := if ch = .uninitialized then n + 1 else n

/-- The levels at which the configuration lines rest after a SHIFT of `cfg` (R155). -/
def restLines (cfg : Byte) : Lines := ⟨.ofBool (cfg.getLsbD 0), .high, .high⟩

/-- The panel after a SHIFT of `cfg` (R153). -/
def panelHolding (cfg : Byte) : Panel := ⟨.ofByte cfg, .ofByte cfg⟩

/-- SEQ after command `i` has ended with code `e` at uop index `upc`, having latched no operand. -/
def seqAfter (i : Instr) (e : Err) (upc : Nat) (q : Seq) : Seq :=
  { q with busy := false, op := opOf i, w := waitOf i, upc := upc, hold := .none, err := e }

/-- A channel owned by the ENGINE, its line at level 0. -/
def idleChannel : PulseUnit := { ch := .idle, active := false, wf := none, line := .low }

/-- A channel consumed by the waveform of `(h, l)`, which PTX is playing. -/
def playing (h l : Half) : PulseUnit :=
  { ch := .inFlight, active := true, wf := some (waveform h l), line := .playing }

/-- A consumed channel whose transmission has ended. -/
def spentChannel : PulseUnit := { ch := .inFlight, active := false, wf := none, line := .low }

/-- The event of a submission of `(h, l)` (R171). -/
def pulseTxOf (h l : Half) : Event := .pulseTx (waveform h l).1 (waveform h l).2

/-- A waited pulse in the trace: its submission, then its completion (R178, R180). -/
def waitedPulse (h l : Half) : List Event := [pulseTxOf h l, .pulseDone]

/-! ### The parts of the invariant of reachable states -/

/-- R33, R40: PTX plays exactly when it has a waveform and the line is playing, and only on a consumed channel; the
pulse line is unknown exactly until the channel is first initialized. -/
def PulseInv (u : PulseUnit) : Prop :=
  (u.active = true → u.ch = .inFlight) ∧ (u.active = u.wf.isSome) ∧ (u.active = true ↔ u.line = .playing) ∧
  (u.ch = .uninitialized ↔ u.line = .unknown)

/-- R34: a row transfer in progress means that SEQ is busy and waits for it. -/
def DmaInv (s : State) : Prop := s.dma.active = true → s.seq.busy = true ∧ s.seq.hold = .dmaDone

/-- Whether a uop may be waiting for the named completion (R178, R186, R200). -/
def mayHold : Uop → Hold → Bool
  | _, .none => true
  | .pulse _ _ wt, .pulseDone => wt
  | .reclaim, .pulseDone => true
  | .dmaRow, .dmaDone => true
  | _, _ => false

/-- R30, R31, R135: while a command runs, its latched opcode and `upc` name a uop that may be waiting for what SEQ waits
for, `ERR` is 0, and a pulse hold finds the channel consumed; while none runs, nothing is waited for. -/
def SeqInv (s : State) : Prop :=
  (s.seq.busy = true → ∃ u, currentUop s = some u ∧ mayHold u s.seq.hold = true ∧ s.seq.err = .none ∧
    (s.seq.hold = .pulseDone → s.pulse.ch = .inFlight)) ∧
  (s.seq.busy = false → s.seq.hold = .none)

/-- R35, R72: the row buffer keeps its canonical form and lies within `BYTES_PER_LINE`. -/
def BufInv (s : State) : Prop := Memory.wf s.buf = true ∧ Memory.within s.params.bytesPerLine s.buf = true

/-- What a reader of the trace knows of the lines and the panel (R41, R43). -/
def replayEvent (x : Lines × Panel) : Event → Lines × Panel
  | .gpio line b => (x.1.drive line b, x.2.observe x.1 line b)
  | .cmd _ _ | .wait _ | .pulseTx _ _ | .pulseDone | .dmaTx _ | .dmaDone _ | .done _ => x

/-- Lines and panel replayed from the trace, from their values at reset (R40, R43, R60). -/
def replay (tr : List Event) : Lines × Panel :=
  tr.foldl replayEvent (⟨.unknown, .unknown, .unknown⟩, ⟨.unknown, .unknown⟩)

/-- R43: the lines and the panel are what the trace says ("derived from TRACE"). -/
def TraceInv (s : State) : Prop := replay s.trace = (s.lines, s.panel)

end Sys2Proof.Machine
end

