-- ==== Sys2Proof/Certificates/Slice0/Obligations.lean ====
section
/-! DEFINITION. The statements for the provers, each a formal reading of rules of the spec. Draws are fields of the state,
so a statement over every state is one over every answer; where a statement names the answers a run takes, the state
supplies them. -/

open Sys2Proof Sys2Proof.Machine

/-! ### Encoding -/

/-- R102, R104: every command word of the opcode map, written out, and words that R104 makes illegal. -/
def Obligations.WrittenWordsDecode : Prop :=
  decodeWord 0x00000001 = .ok .powerOn ∧ decodeWord 0x00000002 = .ok .powerOff ∧
  decodeWord 0x00000003 = .ok .frameStart ∧ decodeWord 0x00000004 = .ok .frameEnd ∧
  decodeWord 0x00000005 = .ok .outputRow ∧ decodeWord 0x00000006 = .ok .skip ∧
  decodeWord 0x00000007 = .ok (.pulse false) ∧ decodeWord 0x00000107 = .ok (.pulse true) ∧
  decodeWord 0x00000008 = .ok .reclaim ∧
  decodeWord 0x00000000 = .error .reservedOpcode ∧ decodeWord 0x0000000F = .error .reservedOpcode ∧
  decodeWord 0x00000010 = .error .reservedBits ∧ decodeWord 0x80000001 = .error .reservedBits ∧
  decodeWord 0x00000207 = .error .reservedBits ∧ decodeWord 0x00000101 = .error .waitNotAllowed

/-- R109: a word is a row's command exactly when it matches the row under its mask, PULSE's `W` read from bit 8. -/
def Obligations.DecodeMatchesTable : Prop :=
  ∀ (v : Word) (i : Instr),
    decodeWord v = .ok i ↔ v &&& tableMask i = tableMatch i ∧ (∀ w, i = .pulse w → w = v.getLsbD 8)

/-- R104, its conditions on the word itself: exactly these words decode to no command. -/
def Obligations.IllegalWordsRejected : Prop :=
  ∀ v : Word, (∃ e, decodeWord v = .error e) ↔
    (v.extractLsb' 0 4 = 0 ∨ 9 ≤ v.extractLsb' 0 4 ∨ v.extractLsb' 4 4 ≠ 0 ∨ v.extractLsb' 9 23 ≠ 0 ∨
      (v.getLsbD 8 = true ∧ v.extractLsb' 0 4 ≠ 7))

/-- R100, R102, R106, R78: the encoder's word decodes to its command, it is the only word that does, and the same holds
of its four bytes before any further bytes. -/
def Obligations.EncodeDecodeRoundTrip : Prop :=
  ∀ i : Instr, (∀ v : Word, decodeWord v = .ok i ↔ v = encode i) ∧
    (∀ rest : List Byte, decodeBytes (encodeBytes i ++ rest) = .ok (i, rest)) ∧
    (∀ bytes rest : List Byte, decodeBytes bytes = .ok (i, rest) → bytes = encodeBytes i ++ rest)

/-! ### The step and the issue of commands -/

/-- R74, R130: where the HOST moves and its next statement writes to CMD a word that decodes to `i`, the step is `exec i`
on the state with the statement taken off the program (and the drawn turn taken, where a turn is drawn). -/
def Obligations.StepRunsTheDecodedCommand : Prop :=
  ∀ (s : State) (v : Word) (i : Instr) (rest : List Access),
    s.host.program = .write 0x000 4 v :: rest → decodeWord v = .ok i →
    (enabledAgents s = [.host] → step s = exec i (s.setHost { s.host with program := rest })) ∧
    (enabledAgents s ≠ [.host] → nextTurn s = .host →
      step s = exec i ((spendTurn s).setHost { s.host with program := rest }))

/-- A word placed by `withFetchWord` is what the very next step writes to CMD, from every state, and nothing else is
disturbed. The placing is the model's (notes/assumptions/1). -/
def Obligations.PlacedWordRunsNext : Prop :=
  ∀ (s : State) (w : Nat),
    step (s.withFetchWord 32 w) = hostCommand (BitVec.ofNat 32 w) s ∧
    ∀ i, decodeWord (BitVec.ofNat 32 w) = .ok i → step (s.withFetchWord 32 w) = exec i s

/-- R130: a HOST write to CMD issues the word's command, a legal one by `exec`, an illegal one to end with `ERR = 4`; while
a command runs it is `MF(CMD_BUSY)` and nothing else. -/
def Obligations.CommandWriteWhileBusyFaults : Prop :=
  ∀ (s : State) (v : Word),
    (s.seq.busy = true → hostWrite 0x000 4 v s =
      .next (s.setFaults (if .cmdBusy ∈ s.faults then s.faults else s.faults ++ [.cmdBusy]))) ∧
    (s.seq.busy = false → ∀ i, decodeWord v = .ok i → hostWrite 0x000 4 v s = exec i s) ∧
    (s.seq.busy = false → ∀ e, decodeWord v = .error e →
      ∃ t, hostWrite 0x000 4 v s = .next t ∧ t.seq.err = .illegalCommand ∧ t.seq.busy = false) ∧
    (s.seq.busy = true → ∀ i, exec i s =
      .next (s.setFaults (if .cmdBusy ∈ s.faults then s.faults else s.faults ++ [.cmdBusy])))

/-- R132: an illegal command (an illegal word, RECLAIM where the implementation lacks it, an operand register with a bit
of `[31:16]` set) leaves the two marker events, `ERR = 4`, `op` and `w`; nothing else changes. -/
def Obligations.IllegalCommandOnlyMarks : Prop :=
  ∀ (s : State), s.seq.busy = false →
    (∀ (v : Word) (e : DecodeError), decodeWord v = .error e → hostWrite 0x000 4 v s = .next { s with
      seq := { s.seq with op := v.extractLsb' 0 4, w := v.getLsbD 8, err := .illegalCommand }
      trace := s.trace ++ [.cmd (v.extractLsb' 0 4) (v.getLsbD 8), .done .illegalCommand] }) ∧
    (s.params.reclaimPresent = false → exec .reclaim s = .next { s with
      seq := { s.seq with op := 8, w := false, err := .illegalCommand }
      trace := s.trace ++ [.cmd 8 false, .done .illegalCommand] }) ∧
    (s.regs.argw0 = true → s.regs.arg0.extractLsb' 16 16 ≠ 0 → exec .outputRow s = .next { s with
      seq := { s.seq with op := 5, w := false, err := .illegalCommand }
      trace := s.trace ++ [.cmd 5 false, .done .illegalCommand] }) ∧
    (∀ w, s.regs.argw0 = true → s.regs.argw1 = true →
      (s.regs.arg0.extractLsb' 16 16 ≠ 0 ∨ s.regs.arg1.extractLsb' 16 16 ≠ 0) → exec (.pulse w) s = .next { s with
      seq := { s.seq with op := 7, w := w, err := .illegalCommand }
      trace := s.trace ++ [.cmd 7 w, .done .illegalCommand] })

/-- R131: the six commands that read no operand are issued: `op` and `w` latched, the `Cmd` marker, `ERR` cleared, SEQ
busy at uop 0 with no hold, the phase moved by `phase_issue` (R245), and nothing else. -/
def Obligations.OperandlessCommandsIssue : Prop :=
  ∀ (s : State) (i : Instr), s.seq.busy = false →
    (i = .powerOn ∨ i = .powerOff ∨ i = .frameStart ∨ i = .frameEnd ∨ i = .skip ∨
      (i = .reclaim ∧ s.params.reclaimPresent = true)) →
    exec i s = .next { s with
      seq := { s.seq with busy := true, op := opOf i, w := false, upc := 0, hold := .none, err := .none }
      phase := if i = .powerOn then .poweringUp else if i = .powerOff then .poweringDown else s.phase
      trace := s.trace ++ [.cmd (opOf i) false] }

/-- R103, R131: OUTPUT_ROW and PULSE are issued with their operands latched from written registers whose bits `[31:16]`
are 0, and nothing else changes; a register never written is `MF(ARG_UNWRITTEN)`, whatever the registers hold, with the
`Cmd` marker out, `ERR = 0` and `busy = 0` (R271). -/
def Obligations.OperandCommandsIssue : Prop :=
  ∀ (s : State), s.seq.busy = false →
    (s.regs.argw0 = true → s.regs.arg0.extractLsb' 16 16 = 0 → exec .outputRow s = .next { s with
      seq := { s.seq with busy := true, op := 5, w := false, a0 := s.regs.arg0.extractLsb' 0 16, upc := 0,
                          hold := .none, err := .none }
      trace := s.trace ++ [.cmd 5 false] }) ∧
    (∀ w, s.regs.argw0 = true → s.regs.argw1 = true → s.regs.arg0.extractLsb' 16 16 = 0 →
      s.regs.arg1.extractLsb' 16 16 = 0 → exec (.pulse w) s = .next { s with
      seq := { s.seq with busy := true, op := 7, w := w, a0 := s.regs.arg0.extractLsb' 0 16,
                          a1 := s.regs.arg1.extractLsb' 0 16, upc := 0, hold := .none, err := .none }
      trace := s.trace ++ [.cmd 7 w] }) ∧
    (s.regs.argw0 = false → exec .outputRow s = .next { s with
      seq := { s.seq with op := 5, w := false, err := .none }
      faults := if .argUnwritten ∈ s.faults then s.faults else s.faults ++ [.argUnwritten]
      trace := s.trace ++ [.cmd 5 false] }) ∧
    (∀ w, (s.regs.argw0 = false ∨ s.regs.argw1 = false) → exec (.pulse w) s = .next { s with
      seq := { s.seq with op := 7, w := w, err := .none }
      faults := if .argUnwritten ∈ s.faults then s.faults else s.faults ++ [.argUnwritten]
      trace := s.trace ++ [.cmd 7 w] })

/-- The frame of every command's issue (R131, R132): whatever the outcome, CFG, the operand registers, the pulse channel,
the DMA agent, every byte of the row buffer, the lines, the panel, the parameters, the HOST and the draws are
unchanged. -/
def Obligations.IssueLeavesTheRest : Prop :=
  ∀ (i : Instr) (s t : State), exec i s = .next t →
    t.cfg = s.cfg ∧ t.regs = s.regs ∧ t.pulse = s.pulse ∧ t.dma = s.dma ∧
    (∀ a, Memory.read t.buf a = Memory.read s.buf a) ∧ t.lines = s.lines ∧ t.panel = s.panel ∧
    t.params = s.params ∧ t.host = s.host ∧ t.draws = s.draws

/-! ### Whole commands, from issue to `Done` -/

/-- R230, R245: POWER_ON is issued and runs its 15 uops: five field changes, each shifted out and followed by its delay,
in order; it ends with `ERR = 0` and touches nothing but CFG, the configuration lines, the panel, SEQ, the phase and the
trace. -/
def Obligations.PowerOnRuns : Prop :=
  ∀ s : State, quiet s = true → s.seq.busy = false →
    let c1 := putField .scanDirection true s.cfg
    let c2 := putField .powerDisable false c1
    let c3 := putField .negPowerEnable true c2
    let c4 := putField .posPowerEnable true c3
    let c5 := putField .stv true c4
    ∃ t, exec .powerOn s = .next t ∧ Runs 15 t { s with
      cfg := c5
      seq := seqAfter .powerOn .none 15 s.seq
      lines := restLines c5
      panel := panelHolding c5
      phase := .idlePowered
      trace := s.trace ++ [.cmd 1 false] ++ shiftEvents c1 ++ delayEvents s.params.dPon0
        ++ shiftEvents c2 ++ delayEvents s.params.dPon1 ++ shiftEvents c3 ++ delayEvents s.params.dPon2
        ++ shiftEvents c4 ++ delayEvents s.params.dPon3 ++ shiftEvents c5 ++ delayEvents s.params.dPon4
        ++ [.done .none] }

/-- R232, R245: POWER_OFF is issued and runs its 12 uops, likewise. -/
def Obligations.PowerOffRuns : Prop :=
  ∀ s : State, quiet s = true → s.seq.busy = false →
    let c1 := putField .posPowerEnable false s.cfg
    let c2 := putField .negPowerEnable false c1
    let c3 := putField .powerDisable true c2
    let c4 := putField .stv false c3
    ∃ t, exec .powerOff s = .next t ∧ Runs 12 t { s with
      cfg := c4
      seq := seqAfter .powerOff .none 12 s.seq
      lines := restLines c4
      panel := panelHolding c4
      phase := .off
      trace := s.trace ++ [.cmd 2 false] ++ shiftEvents c1 ++ delayEvents s.params.dPoff1
        ++ shiftEvents c2 ++ delayEvents s.params.dPoff2 ++ shiftEvents c3 ++ delayEvents s.params.dPoff3
        ++ shiftEvents c4 ++ delayEvents s.params.dPoff4 ++ [.done .none] }

/-- R234, R245: from a channel that is not consumed, every answer OK and PTX completing whenever SEQ waits, FRAME_START
is issued and runs to its end: `mode`, a pulse, `stv` cleared, the long pulse, `stv` set, four priming pulses,
`output_enable`, one pulse, every pulse waited; the channel ends Idle. -/
def Obligations.FrameStartRuns : Prop :=
  ∀ (s : State) (ra : List Answer) (rt : List Agent), quiet s = true → s.seq.busy = false →
    s.pulse.ch ≠ .inFlight → s.params.ticksFit = true →
    s.draws.answers = List.replicate (answersNeeded s.pulse.ch 14) .ok ++ ra →
    s.draws.turns = List.replicate 7 .ptx ++ rt →
    let c1 := putField .mode true s.cfg
    let c2 := putField .stv false c1
    let c3 := putField .stv true c2
    let c4 := putField .outputEnable true c3
    let p := s.params
    ∃ t, exec .frameStart s = .next t ∧ Runs 29 t { s with
      cfg := c4
      seq := seqAfter .frameStart .none 15 s.seq
      pulse := idleChannel
      lines := restLines c4
      panel := panelHolding c4
      phase := .frameActive
      draws := { s.draws with answers := ra, turns := rt }
      trace := s.trace ++ [.cmd 3 false] ++ shiftEvents c1 ++ waitedPulse p.fsAH p.fsAL
        ++ shiftEvents c2 ++ waitedPulse p.fsLongH p.fsLongL ++ shiftEvents c3
        ++ waitedPulse p.fsPrimeH p.fsPrimeL ++ waitedPulse p.fsPrimeH p.fsPrimeL
        ++ waitedPulse p.fsPrimeH p.fsPrimeL ++ waitedPulse p.fsPrimeH p.fsPrimeL
        ++ shiftEvents c4 ++ waitedPulse p.fsZH p.fsZL ++ [.done .none] }

/-- R236, R245: FRAME_END likewise: `output_enable` cleared, `mode` set, two waited pulses. -/
def Obligations.FrameEndRuns : Prop :=
  ∀ (s : State) (ra : List Answer) (rt : List Agent), quiet s = true → s.seq.busy = false →
    s.pulse.ch ≠ .inFlight → s.params.ticksFit = true →
    s.draws.answers = List.replicate (answersNeeded s.pulse.ch 4) .ok ++ ra →
    s.draws.turns = [.ptx, .ptx] ++ rt →
    let c1 := putField .outputEnable false s.cfg
    let c2 := putField .mode true c1
    let p := s.params
    ∃ t, exec .frameEnd s = .next t ∧ Runs 10 t { s with
      cfg := c2
      seq := seqAfter .frameEnd .none 6 s.seq
      pulse := idleChannel
      lines := restLines c2
      panel := panelHolding c2
      phase := .idlePowered
      draws := { s.draws with answers := ra, turns := rt }
      trace := s.trace ++ [.cmd 4 false] ++ shiftEvents c1 ++ shiftEvents c2
        ++ waitedPulse p.feH p.feL ++ waitedPulse p.feH p.feL ++ [.done .none] }

/-- R205, R200, R207: OUTPUT_ROW is issued with its output time latched, toggles the latch (each step shifted out),
submits its pulse without waiting and sends the row; it ends by the transfer's outcome, `Done(0)` or `Done(3)`, with the
channel consumed. Here PTX has not completed when OUTPUT_ROW ends ("Returns once the bus transfer (not the pulse)
completes"). The bytes sent are the row buffer's, as RowBytesAreTheBuffer states. -/
def Obligations.OutputRowRunsPulseLast : Prop :=
  ∀ (s : State) (r : BusResult) (ra : List Answer) (rb : List BusResult) (rt : List Agent),
    quiet s = true → s.seq.busy = false → s.pulse.ch ≠ .inFlight →
    s.regs.argw0 = true → s.regs.arg0.extractLsb' 16 16 = 0 →
    s.regs.arg0.extractLsb' 0 16 ≤ s.params.pulseMaxTicks → s.params.rowLow ≤ s.params.pulseMaxTicks →
    s.draws.answers = List.replicate (answersNeeded s.pulse.ch 1) .ok ++ ra →
    s.draws.busResults = r :: rb → s.draws.turns = [.seq, .dma, .seq] ++ rt →
    let h := s.regs.arg0.extractLsb' 0 16
    let c1 := putField .latchEnable true s.cfg
    let c2 := putField .latchEnable false c1
    let e := if r = .ok then Err.none else Err.busTransfer
    let row := rowBytes s.params.bytesPerLine 0 s
    let d := (spendRow s.params.bytesPerLine 0 s).draws
    ∃ t, exec .outputRow s = .next t ∧ Runs 8 t { s with
      cfg := c2
      seq := { seqAfter .outputRow e (if r = .ok then 6 else 5) s.seq with a0 := h }
      pulse := playing h s.params.rowLow
      dma := { active := false, result := some r }
      lines := restLines c2
      panel := panelHolding c2
      phase := if r = .ok then s.phase else .unknown
      draws := { d with answers := ra, busResults := rb, turns := rt }
      trace := s.trace ++ [.cmd 5 false] ++ shiftEvents c1 ++ shiftEvents c2
        ++ [pulseTxOf h s.params.rowLow, .dmaTx row, .dmaDone r, .done e] }

/-- R205, R207: the same with PTX completing first, before the row is even submitted. -/
def Obligations.OutputRowRunsPulseFirst : Prop :=
  ∀ (s : State) (r : BusResult) (ra : List Answer) (rb : List BusResult) (rt : List Agent),
    quiet s = true → s.seq.busy = false → s.pulse.ch ≠ .inFlight →
    s.regs.argw0 = true → s.regs.arg0.extractLsb' 16 16 = 0 →
    s.regs.arg0.extractLsb' 0 16 ≤ s.params.pulseMaxTicks → s.params.rowLow ≤ s.params.pulseMaxTicks →
    s.draws.answers = List.replicate (answersNeeded s.pulse.ch 1) .ok ++ ra →
    s.draws.busResults = r :: rb → s.draws.turns = [.ptx, .dma] ++ rt →
    let h := s.regs.arg0.extractLsb' 0 16
    let c1 := putField .latchEnable true s.cfg
    let c2 := putField .latchEnable false c1
    let e := if r = .ok then Err.none else Err.busTransfer
    let row := rowBytes s.params.bytesPerLine 0 s
    let d := (spendRow s.params.bytesPerLine 0 s).draws
    ∃ t, exec .outputRow s = .next t ∧ Runs 9 t { s with
      cfg := c2
      seq := { seqAfter .outputRow e (if r = .ok then 6 else 5) s.seq with a0 := h }
      pulse := spentChannel
      dma := { active := false, result := some r }
      lines := restLines c2
      panel := panelHolding c2
      phase := if r = .ok then s.phase else .unknown
      draws := { d with answers := ra, busResults := rb, turns := rt }
      trace := s.trace ++ [.cmd 5 false] ++ shiftEvents c1 ++ shiftEvents c2
        ++ [pulseTxOf h s.params.rowLow, .pulseDone, .dmaTx row, .dmaDone r, .done e] }

/-- R210: SKIP plays its fixed pulse, waited or not as `SKIP_WAIT` says, and touches nothing but the pulse channel, SEQ
and the trace. -/
def Obligations.SkipRuns : Prop :=
  ∀ (s : State) (ra : List Answer) (rt : List Agent), quiet s = true → s.seq.busy = false →
    s.pulse.ch ≠ .inFlight → s.params.ticksFit = true →
    let p := s.params
    (p.skipWait = true → s.draws.answers = List.replicate (answersNeeded s.pulse.ch 2) .ok ++ ra →
      s.draws.turns = .ptx :: rt →
      ∃ t, exec .skip s = .next t ∧ Runs 3 t { s with
        seq := seqAfter .skip .none 1 s.seq
        pulse := idleChannel
        draws := { s.draws with answers := ra, turns := rt }
        trace := s.trace ++ [.cmd 6 false] ++ waitedPulse p.skipH p.skipL ++ [.done .none] }) ∧
    (p.skipWait = false → s.draws.answers = List.replicate (answersNeeded s.pulse.ch 1) .ok ++ ra →
      ∃ t, exec .skip s = .next t ∧ Runs 1 t { s with
        seq := seqAfter .skip .none 1 s.seq
        pulse := playing p.skipH p.skipL
        draws := { s.draws with answers := ra }
        trace := s.trace ++ [.cmd 6 false, pulseTxOf p.skipH p.skipL, .done .none] })

/-- R185, R178, R179: PULSE plays the waveform of its latched operands; waited, the channel comes back, not waited, it
stays consumed while SEQ is idle again. -/
def Obligations.PulseRuns : Prop :=
  ∀ (s : State) (ra : List Answer) (rt : List Agent), quiet s = true → s.seq.busy = false →
    s.pulse.ch ≠ .inFlight → s.regs.argw0 = true → s.regs.argw1 = true →
    s.regs.arg0.extractLsb' 16 16 = 0 → s.regs.arg1.extractLsb' 16 16 = 0 →
    s.regs.arg0.extractLsb' 0 16 ≤ s.params.pulseMaxTicks → s.regs.arg1.extractLsb' 0 16 ≤ s.params.pulseMaxTicks →
    let h := s.regs.arg0.extractLsb' 0 16
    let l := s.regs.arg1.extractLsb' 0 16
    (s.draws.answers = List.replicate (answersNeeded s.pulse.ch 2) .ok ++ ra → s.draws.turns = .ptx :: rt →
      ∃ t, exec (.pulse true) s = .next t ∧ Runs 3 t { s with
        seq := { seqAfter (.pulse true) .none 1 s.seq with a0 := h, a1 := l }
        pulse := idleChannel
        draws := { s.draws with answers := ra, turns := rt }
        trace := s.trace ++ [.cmd 7 true] ++ waitedPulse h l ++ [.done .none] }) ∧
    (s.draws.answers = List.replicate (answersNeeded s.pulse.ch 1) .ok ++ ra →
      ∃ t, exec (.pulse false) s = .next t ∧ Runs 1 t { s with
        seq := { seqAfter (.pulse false) .none 1 s.seq with a0 := h, a1 := l }
        pulse := playing h l
        draws := { s.draws with answers := ra }
        trace := s.trace ++ [.cmd 7 false, pulseTxOf h l, .done .none] })

/-- R187, R186: RECLAIM, where it is present. Not consumed: nothing to return, and no initialization. Consumed with the
transmission over: the channel comes back at once. Consumed with PTX playing: SEQ waits, and the channel comes back after
`PulseDone`. -/
def Obligations.ReclaimRuns : Prop :=
  ∀ (s : State) (ra : List Answer) (rt : List Agent), s.seq.busy = false → s.params.reclaimPresent = true →
    (quiet s = true → s.pulse.ch ≠ .inFlight → ∃ t, exec .reclaim s = .next t ∧ Runs 1 t { s with
      seq := seqAfter .reclaim .none 1 s.seq
      trace := s.trace ++ [.cmd 8 false, .done .none] }) ∧
    (quiet s = true → s.pulse.ch = .inFlight → s.draws.answers = .ok :: ra →
      ∃ t, exec .reclaim s = .next t ∧ Runs 1 t { s with
      seq := seqAfter .reclaim .none 1 s.seq
      pulse := { s.pulse with ch := .idle }
      draws := { s.draws with answers := ra }
      trace := s.trace ++ [.cmd 8 false, .done .none] }) ∧
    (quiet (s.setPulse { s.pulse with active := false }) = true → s.pulse.active = true → s.pulse.ch = .inFlight →
      s.draws.answers = .ok :: ra → s.draws.turns = [.seq, .ptx] ++ rt →
      ∃ t, exec .reclaim s = .next t ∧ Runs 3 t { s with
      seq := seqAfter .reclaim .none 1 s.seq
      pulse := idleChannel
      draws := { s.draws with answers := ra, turns := rt }
      trace := s.trace ++ [.cmd 8 false, .pulseDone, .done .none] })

/-- R208, R205, R210, R235, R310: on a consumed channel, its waveform still playing or over, every command that pulses ends
with `Err(2)` at its first PULSE uop: FRAME_START at uop 2, FRAME_END at uop 4, OUTPUT_ROW at uop 4 after both latch shifts
and with no `DmaTx`, SKIP and PULSE at uop 0. The uops before it have taken their effect; there is no `PulseTx`; the channel,
PTX and the pulse line are as they were. While the waveform plays the turns named are SEQ's. -/
def Obligations.ConsumedChannelAbortsCommands : Prop :=
  ∀ (s : State) (rt : List Agent), quiet (s.setPulse { s.pulse with active := false }) = true → s.seq.busy = false →
    s.pulse.ch = .inFlight → s.params.ticksFit = true →
    let h := s.regs.arg0.extractLsb' 0 16
    let l := s.regs.arg1.extractLsb' 0 16
    let started := putField .mode true s.cfg
    let dark := putField .outputEnable false s.cfg
    let ended := putField .mode true dark
    let latching := putField .latchEnable true s.cfg
    let latched := putField .latchEnable false latching
    (s.draws.turns = seqTurns s.pulse.active 3 ++ rt → ∃ t, exec .frameStart s = .next t ∧ Runs 3 t { s with
      cfg := started
      seq := seqAfter .frameStart .channelUnavailable 2 s.seq
      lines := restLines started
      panel := panelHolding started
      phase := .unknown
      draws := { s.draws with turns := rt }
      trace := s.trace ++ [.cmd 3 false] ++ shiftEvents started ++ [.done .channelUnavailable] }) ∧
    (s.draws.turns = seqTurns s.pulse.active 5 ++ rt → ∃ t, exec .frameEnd s = .next t ∧ Runs 5 t { s with
      cfg := ended
      seq := seqAfter .frameEnd .channelUnavailable 4 s.seq
      lines := restLines ended
      panel := panelHolding ended
      phase := .unknown
      draws := { s.draws with turns := rt }
      trace := s.trace ++ [.cmd 4 false] ++ shiftEvents dark ++ shiftEvents ended
        ++ [.done .channelUnavailable] }) ∧
    (s.draws.turns = seqTurns s.pulse.active 5 ++ rt → s.regs.argw0 = true → s.regs.arg0.extractLsb' 16 16 = 0 →
      h ≤ s.params.pulseMaxTicks → ∃ t, exec .outputRow s = .next t ∧ Runs 5 t { s with
      cfg := latched
      seq := { seqAfter .outputRow .channelUnavailable 4 s.seq with a0 := h }
      lines := restLines latched
      panel := panelHolding latched
      phase := .unknown
      draws := { s.draws with turns := rt }
      trace := s.trace ++ [.cmd 5 false] ++ shiftEvents latching ++ shiftEvents latched
        ++ [.done .channelUnavailable] }) ∧
    (s.draws.turns = seqTurns s.pulse.active 1 ++ rt → ∃ t, exec .skip s = .next t ∧ Runs 1 t { s with
      seq := seqAfter .skip .channelUnavailable 0 s.seq
      phase := .unknown
      draws := { s.draws with turns := rt }
      trace := s.trace ++ [.cmd 6 false, .done .channelUnavailable] }) ∧
    (∀ w, s.draws.turns = seqTurns s.pulse.active 1 ++ rt → s.regs.argw0 = true → s.regs.argw1 = true →
      s.regs.arg0.extractLsb' 16 16 = 0 → s.regs.arg1.extractLsb' 16 16 = 0 →
      h ≤ s.params.pulseMaxTicks → l ≤ s.params.pulseMaxTicks → ∃ t, exec (.pulse w) s = .next t ∧ Runs 1 t { s with
      seq := { seqAfter (.pulse w) .channelUnavailable 0 s.seq with a0 := h, a1 := l }
      phase := .unknown
      draws := { s.draws with turns := rt }
      trace := s.trace ++ [.cmd 7 w, .done .channelUnavailable] })

/-- R188(b), R175: a PULSE command right after a non-waited one ends with `Err(2)` at once, whatever its wait flag and
while PTX still plays the first waveform: no `PulseTx`, no hold. -/
def Obligations.SecondPulseFailsAtOnce : Prop :=
  ∀ (s : State) (ra : List Answer) (rt : List Agent) (w : Bool), quiet s = true → s.seq.busy = false →
    s.pulse.ch ≠ .inFlight → s.regs.argw0 = true → s.regs.argw1 = true →
    s.regs.arg0.extractLsb' 16 16 = 0 → s.regs.arg1.extractLsb' 16 16 = 0 →
    s.regs.arg0.extractLsb' 0 16 ≤ s.params.pulseMaxTicks → s.regs.arg1.extractLsb' 0 16 ≤ s.params.pulseMaxTicks →
    s.draws.answers = List.replicate (answersNeeded s.pulse.ch 1) .ok ++ ra → s.draws.turns = .seq :: rt →
    let h := s.regs.arg0.extractLsb' 0 16
    let l := s.regs.arg1.extractLsb' 0 16
    ∃ t u v, exec (.pulse false) s = .next t ∧ Runs 1 t u ∧ u.seq.busy = false ∧ u.seq.err = .none ∧
      exec (.pulse w) u = .next v ∧ Runs 1 v { s with
        seq := { seqAfter (.pulse w) .channelUnavailable 0 s.seq with a0 := h, a1 := l }
        pulse := playing h l
        phase := .unknown
        draws := { s.draws with answers := ra, turns := rt }
        trace := s.trace ++ [.cmd 7 false, pulseTxOf h l, .done .none, .cmd 7 w, .done .channelUnavailable] }

/-- R240: POWER_ON then POWER_OFF, from any CFG, ends with `power_disable = 1` and `stv = 0` in CFG and at the panel;
from CFG's reset value it ends at `0x22`, with `scan_direction` still 1. -/
def Obligations.PowerRoundTrip : Prop :=
  ∀ s : State, quiet s = true → s.seq.busy = false →
    ∃ t u v w, exec .powerOn s = .next t ∧ Runs 15 t u ∧ u.seq.busy = false ∧ u.seq.err = .none ∧
      exec .powerOff u = .next v ∧ Runs 12 v w ∧ w.seq.busy = false ∧ w.seq.err = .none ∧
      getField .powerDisable w.cfg = true ∧ getField .stv w.cfg = false ∧
      w.cfg = (s.cfg ||| 0x22) &&& 0xE3 ∧ w.panel.latched = .ofByte w.cfg ∧
      (s.cfg = 0x12 → w.cfg = 0x22 ∧ getField .scanDirection w.cfg = true)

/-- R241: FRAME_START followed by FRAME_END, whatever the answers and however long PTX takes, ends with `output_enable = 0`
and `mode = 1` whenever both end without error. -/
def Obligations.EmptyFrameEndsDark : Prop :=
  ∀ (s t u v w : State) (n m : Nat), quiet s = true → s.seq.busy = false →
    exec .frameStart s = .next t → Runs n t u → u.seq.busy = false → u.seq.err = .none →
    exec .frameEnd u = .next v → Runs m v w → w.seq.busy = false → w.seq.err = .none →
    getField .outputEnable w.cfg = false ∧ getField .mode w.cfg = true

/-! ### The uops -/

/-- R150: SETF sets its field and no other, emits nothing, moves no line and nothing at the panel, leaves `ERR`, cannot
fail or hold; setting a field to the value it has changes nothing; the rule's example. -/
def Obligations.SetfChangesOneField : Prop :=
  ∀ (f : Field) (b : Bool) (s : State), ∃ c, runUop (.setf f b) s = .done { s with cfg := c } ∧
    getField f c = b ∧ (∀ g, g ≠ f → getField g c = getField g s.cfg) ∧ (getField f s.cfg = b → c = s.cfg) ∧
    (s.cfg = 0x12 → f = .scanDirection → b = true → c = 0x32)

/-- R151, R152, R155: a SHIFT emits exactly 26 events (R154): strobe low; for each bit of CFG from 7 down to 0 clock low,
the bit's level on DATA, clock high; strobe high. The bits in that order are the fields in R152's order. The lines rest at
STR = 1, CLK = 1, DATA = bit 0; CFG is not written, nothing else changes beside the panel, and it cannot fail. -/
def Obligations.ShiftSendsTheRegister : Prop :=
  ∀ s : State, ∃ t evs, runUop .shift s = .done t ∧ evs.length = 26 ∧
    evs = [.gpio .str false] ++
      ([7, 6, 5, 4, 3, 2, 1, 0].flatMap fun i =>
        [.gpio .clk false, .gpio .data (s.cfg.getLsbD i), .gpio .clk true]) ++ [.gpio .str true] ∧
    [Field.outputEnable, .mode, .scanDirection, .stv, .negPowerEnable, .posPowerEnable, .powerDisable,
      .latchEnable].map (getField · s.cfg) = [7, 6, 5, 4, 3, 2, 1, 0].map (s.cfg.getLsbD ·) ∧
    t = { s with
      trace := s.trace ++ evs
      lines := ⟨.ofBool (s.cfg.getLsbD 0), .high, .high⟩
      panel := t.panel }

/-- R153: after every SHIFT the panel's latched value and its shift register are CFG, whatever the lines and the panel held
before. That the panel misses no edge is the spec's own choice (D30, notes/assumptions/12). -/
def Obligations.ShiftReachesThePanel : Prop :=
  ∀ s : State, ∃ t, runUop .shift s = .done t ∧ t.panel.latched = .ofByte s.cfg ∧ t.panel.sr = .ofByte s.cfg ∧
    t.cfg = s.cfg

/-- R137: DELAY emits `Wait(n)`, or nothing for `n = 0`, is done in the same step and writes no other state. -/
def Obligations.DelayOnlyWaits : Prop :=
  ∀ (n : Word) (s : State), runUop (.delay n) s = .done { s with
    trace := s.trace ++ (if n = 0 then [] else [.wait n]) }

/-- R171, R172: the waveform in its four cases. -/
def Obligations.WaveformShape : Prop :=
  ∀ h l : Half, (0 < h → waveform h l = (h, l)) ∧ (h = 0 → waveform h l = (l, 0)) ∧
    (0 < h → waveform h 0 = waveform 0 h) ∧ waveform 0 0 = (0, 0)

/-- R174, R271: a duration above `PULSE_MAX_TICKS` records `MF(DUR_RANGE)` and does nothing else, before any other check
of the uop (R263(b)); SEQ stays busy and has no enabled step after it. -/
def Obligations.LongDurationStopsSeq : Prop :=
  ∀ (h l : Half) (wt : Bool) (s : State), s.params.pulseMaxTicks < h ∨ s.params.pulseMaxTicks < l →
    currentUop s = some (.pulse h l wt) → s.seq.hold = .none →
    ∃ t, seqStep s = .next t ∧
      t = { s with faults := if .durRange ∈ s.faults then s.faults else s.faults ++ [.durRange] } ∧
      enabled t .seq = false

/-- R175: a PULSE uop that finds the channel InFlight raises `Err(2)` at once, whether PTX is still playing or not and
whatever its wait flag: no `PulseTx`, no hold, the channel, PTX and the pulse line unchanged; the command ends (R138). -/
def Obligations.ConsumedChannelFailsAtOnce : Prop :=
  ∀ (h l : Half) (wt : Bool) (s : State), h ≤ s.params.pulseMaxTicks → l ≤ s.params.pulseMaxTicks →
    currentUop s = some (.pulse h l wt) → s.seq.hold = .none → s.pulse.ch = .inFlight →
    seqStep s = .next { s with
      seq := { s.seq with busy := false, hold := .none, err := .channelUnavailable }
      phase := .unknown
      trace := s.trace ++ [.done .channelUnavailable] }

/-- R176, R177, R182: a PULSE uop on a channel that is not consumed, by the peripheral's answers. Initialization (only of
an Uninitialized channel) may fail: `Err(1)`, the channel still Uninitialized. Submission may fail: `Err(1)`, no
`PulseTx`, the channel's owner drawn. Otherwise the waveform is submitted: the channel is consumed and PTX plays; the uop
is held if it waits and done if not. -/
def Obligations.PulseSubmission : Prop :=
  ∀ (h l : Half) (wt : Bool) (s : State) (ra : List Answer) (c : Owner) (rc : List Owner),
    h ≤ s.params.pulseMaxTicks → l ≤ s.params.pulseMaxTicks → s.pulse.ch ≠ .inFlight →
    let line' := if s.pulse.ch = .uninitialized then PulseLevel.low else s.pulse.line
    let inits := if s.pulse.ch = .uninitialized then [Answer.ok] else []
    (s.pulse.ch = .uninitialized → s.draws.answers = .fail :: ra →
      runUop (.pulse h l wt) s = .error .pulseConfig { s with draws := { s.draws with answers := ra } }) ∧
    (s.draws.answers = inits ++ .fail :: ra → s.draws.owners = c :: rc →
      runUop (.pulse h l wt) s = .error .pulseConfig { s with
        pulse := { s.pulse with ch := if c = .idle then .idle else .inFlight, line := line' }
        draws := { s.draws with answers := ra, owners := rc } }) ∧
    (s.draws.answers = inits ++ .ok :: ra → ∃ t, t = { s with
        pulse := playing h l
        draws := { s.draws with answers := ra }
        trace := s.trace ++ [pulseTxOf h l] } ∧
      runUop (.pulse h l wt) s = if wt then .held .pulseDone t else .done t)

/-- R178, R186: the resume of a waited PULSE uop and of a RECLAIM uop takes the completion answer: OK returns the channel
and the uop is done; FAIL raises `Err(1)` and the channel's owner is a draw. -/
def Obligations.CompletionAnswer : Prop :=
  ∀ (u : Uop) (s : State) (ra : List Answer) (c : Owner) (rc : List Owner),
    ((∃ h l wt, u = .pulse h l wt) ∨ u = .reclaim) →
    (s.draws.answers = .ok :: ra → resumeUop u s = some (.done { s with
      pulse := { s.pulse with ch := .idle }
      draws := { s.draws with answers := ra } })) ∧
    (s.draws.answers = .fail :: ra → s.draws.owners = c :: rc → resumeUop u s = some (.error .pulseConfig { s with
      pulse := { s.pulse with ch := if c = .idle then .idle else .inFlight }
      draws := { s.draws with answers := ra, owners := rc } }))

/-- R186: RECLAIM is done at once unless the channel is InFlight (it never initializes); it waits for PTX while a waveform
plays; and otherwise it resumes in the same step. -/
def Obligations.ReclaimWaitsOnlyForPtx : Prop :=
  ∀ s : State, (s.pulse.ch ≠ .inFlight → runUop .reclaim s = .done s) ∧
    (s.pulse.ch = .inFlight → s.pulse.active = true → runUop .reclaim s = .held .pulseDone s) ∧
    (s.pulse.ch = .inFlight → s.pulse.active = false → some (runUop .reclaim s) = resumeUop .reclaim s)

/-- R200, R80: DMA_ROW submits exactly `BYTES_PER_LINE` bytes in index order, each written byte as it stands, and holds;
a byte that nothing has written goes out as the next supplied draw. Nothing but the DMA agent, the trace and the draws of
bytes changes; the buffer keeps every byte (R217). -/
def Obligations.RowBytesAreTheBuffer : Prop :=
  ∀ s : State, ∃ row t, runUop .dmaRow s = .held .dmaDone t ∧ row.length = s.params.bytesPerLine ∧
    (∀ i b, i < s.params.bytesPerLine → Memory.read s.buf i = some b → row[i]? = some b) ∧
    (∀ i d, i < s.params.bytesPerLine → Memory.read s.buf i = none →
      s.draws.bytes[((List.range i).filter fun j => (Memory.read s.buf j).isNone).length]? = some d →
      row[i]? = some d) ∧
    t = { s with
      dma := { s.dma with active := true }
      trace := s.trace ++ [.dmaTx row]
      draws := { s.draws with bytes := t.draws.bytes, drawn := t.draws.drawn } }

/-- R200, R201: DMA's completion step records the drawn outcome and emits `DmaDone`; the resume of DMA_ROW is done on OK
and raises `Err(3)` otherwise. -/
def Obligations.TransferOutcome : Prop :=
  ∀ (s : State) (r : BusResult) (rb : List BusResult), s.draws.busResults = r :: rb →
    enabled s .dma = s.dma.active ∧
    ∃ t, agentStep .dma s = .next t ∧
      t = { s with
        dma := { active := false, result := some r }
        trace := s.trace ++ [.dmaDone r]
        draws := { s.draws with busResults := rb } } ∧
      resumeUop .dmaRow t = some (if r = .ok then .done t else .error .busTransfer t)

/-- R180: PTX's completion step is enabled exactly while a waveform plays; it emits `PulseDone`, ends the transmission,
returns the line to level 0 and does not change the channel's ownership. -/
def Obligations.PtxCompletion : Prop :=
  ∀ s : State, enabled s .ptx = s.pulse.active ∧ agentStep .ptx s = .next { s with
    pulse := { ch := s.pulse.ch, active := false, wf := none, line := .low }
    trace := s.trace ++ [.pulseDone] }

/-- R134, R136: a uop that is done advances `upc` by one; after the last one the command completes in the same step, with
`Done(0)`, `busy = 0`, the phase moved by `phase_done`, and `ERR` as it was. A uop that is held sets the hold alone. -/
def Obligations.DoneAdvancesOrCompletes : Prop :=
  ∀ (i : Instr) (u : Uop) (s r : State), currentCommand s = some i → currentUop s = some u → s.seq.hold = .none →
    (runUop u s = .done r → r.seq = s.seq → seqStep s = .next (
      if s.seq.upc + 1 = (uopsOf s.params s.seq.a0 s.seq.a1 i).length then
        { r with
          seq := { s.seq with busy := false, upc := s.seq.upc + 1 }
          phase := phaseDone i r.phase
          trace := r.trace ++ [.done .none] }
      else { r with seq := { s.seq with upc := s.seq.upc + 1 } })) ∧
    (∀ h, runUop u s = .held h r → r.seq = s.seq → seqStep s = .next { r with seq := { s.seq with hold := h } })

/-- R138, R264: when a uop, or the resume of a held one, raises `Err(e)`, in the same step `ERR = e`, `Done(e)`, `busy =
0`, no hold, the phase is unknown, and every effect so far stays. SEQ then has no step: the remaining uops are not
executed and nothing is retried. -/
def Obligations.ErrorEndsTheCommand : Prop :=
  ∀ (i : Instr) (u : Uop) (e : Err) (s r : State), currentCommand s = some i → currentUop s = some u →
    (s.seq.hold = .none ∧ runUop u s = .error e r ∨
      s.seq.hold ≠ .none ∧ resumeUop u (s.setSeq { s.seq with hold := .none }) = some (.error e r)) →
    ∃ t, seqStep s = .next t ∧ t = { r with
      seq := { r.seq with busy := false, hold := .none, err := e }
      phase := .unknown
      trace := r.trace ++ [.done e] } ∧
    enabled t .seq = false

/-! ### The host window -/

/-- R73, R75, R271: accesses of the wrong width, misaligned, to nothing, or of the wrong kind record one model fault and
change nothing else, and a faulting read gives no value. Where several rules name a fault for one access, the order is
the model's (notes/assumptions/7): alignment, the end of the window, the width, the access right. -/
def Obligations.BadAccessesOnlyFault : Prop :=
  ∀ (s : State) (off : Offset) (width : Nat) (v : Word),
    let faulted := fun k => s.setFaults (if k ∈ s.faults then s.faults else s.faults ++ [k])
    let lineEnd := 0x100 + s.params.bytesPerLine
    (width = 0 ∨ off.toNat % width ≠ 0 →
      hostWrite off width v s = .next (faulted .width) ∧ hostRead off width s = faulted .width) ∧
    (0 < width → off.toNat % width = 0 → lineEnd ≤ off.toNat →
      hostWrite off width v s = .next (faulted .unmapped) ∧ hostRead off width s = faulted .unmapped) ∧
    (1 < width → off.toNat % width = 0 → 0x100 ≤ off.toNat → off.toNat < lineEnd →
      hostWrite off width v s = .next (faulted .width) ∧ hostRead off width s = faulted .width) ∧
    (0 < width → width ≠ 4 → off.toNat % width = 0 → off.toNat < 0x100 →
      hostWrite off width v s = .next (faulted .width) ∧ hostRead off width s = faulted .width) ∧
    (off.toNat % 4 = 0 → 0x014 ≤ off.toNat → off.toNat < 0x100 →
      hostWrite off 4 v s = .next (faulted .access) ∧ hostRead off 4 s = faulted .access) ∧
    hostRead 0x000 4 s = faulted .access ∧ hostWrite 0x00C 4 v s = .next (faulted .access) ∧
    hostWrite 0x010 4 v s = .next (faulted .access)

/-- R21, R74, R76: a HOST write to ARG0 or ARG1 sets the register and its written bit, whether or not a command runs, and
nothing else: a running command keeps its latched operands. -/
def Obligations.ArgWritesOnlyTheRegister : Prop :=
  ∀ (s : State) (v : Word),
    hostWrite 0x004 4 v s = .next { s with regs := { s.regs with arg0 := v, argw0 := true } } ∧
    hostWrite 0x008 4 v s = .next { s with regs := { s.regs with arg1 := v, argw1 := true } }

/-- R72, R74, R76: a byte write to the row-buffer window, at each of its offsets: the byte reads back, every other byte is
as it was, nothing else changes; while a command runs it is `MF(BUSY_WRITE)` and the buffer is untouched. -/
def Obligations.BufferWriteReadsBack : Prop :=
  ∀ (s : State) (off : Offset) (i : Nat) (v : Word), off.toNat = 0x100 + i → i < s.params.bytesPerLine →
    (s.seq.busy = false → ∃ t, hostWrite off 1 v s = .next t ∧ t = { s with buf := t.buf } ∧
      Memory.read t.buf i = some (v.extractLsb' 0 8) ∧ (∀ j, j ≠ i → Memory.read t.buf j = Memory.read s.buf j) ∧
      hostRead off 1 t = { t with host := { t.host with
        seen := t.host.seen ++ [⟨off, 1, (v.extractLsb' 0 8).zeroExtend 32⟩] } }) ∧
    (s.seq.busy = true → hostWrite off 1 v s =
      .next (s.setFaults (if .busyWrite ∈ s.faults then s.faults else s.faults ++ [.busyWrite])))

/-- R22: STATUS as a HOST read gives it, field by field, with the codes of its fields; a HOST write to it is a model
fault. -/
def Obligations.StatusFields : Prop :=
  ∀ s : State, ∃ v : Word,
    hostRead 0x00C 4 s = { s with host := { s.host with seen := s.host.seen ++ [⟨0x00C, 4, v⟩] } } ∧
    v.getLsbD 0 = s.seq.busy ∧ v.getLsbD 6 = s.pulse.active ∧ v.getLsbD 7 = s.dma.active ∧
    v.extractLsb' 8 24 = 0 ∧
    v.extractLsb' 1 3 = (match s.seq.err with
      | .none => 0 | .pulseConfig => 1 | .channelUnavailable => 2 | .busTransfer => 3 | .illegalCommand => 4) ∧
    v.extractLsb' 4 2 = (match s.pulse.ch with | .uninitialized => 0 | .idle => 1 | .inFlight => 2) ∧
    ∀ x : Word, hostWrite 0x00C 4 x s =
      .next (s.setFaults (if .access ∈ s.faults then s.faults else s.faults ++ [.access]))

/-- R24: the register CFG as a HOST read gives it: the configuration shadow in bits 7:0 and 0 above, never the panel's
latched value; a HOST write to it is a model fault and changes nothing else (R75). -/
def Obligations.CfgRegisterShowsTheShadow : Prop :=
  ∀ s : State, ∃ v : Word,
    hostRead 0x010 4 s = { s with host := { s.host with seen := s.host.seen ++ [⟨0x010, 4, v⟩] } } ∧
    v.extractLsb' 0 8 = s.cfg ∧ v.extractLsb' 8 24 = 0 ∧
    ∀ x : Word, hostWrite 0x010 4 x s =
      .next (s.setFaults (if .access ∈ s.faults then s.faults else s.faults ++ [.access]))

/-- R74, D2, D22: what a HOST read of an operand register or of a row-buffer byte gives: the value written, or, where
nothing has been written, the next supplied draw. -/
def Obligations.HostReadValues : Prop :=
  ∀ (s : State) (off : Offset) (i : Nat), off.toNat = 0x100 + i → i < s.params.bytesPerLine →
    (s.regs.argw0 = true → hostRead 0x004 4 s =
      { s with host := { s.host with seen := s.host.seen ++ [⟨0x004, 4, s.regs.arg0⟩] } }) ∧
    (s.regs.argw1 = true → hostRead 0x008 4 s =
      { s with host := { s.host with seen := s.host.seen ++ [⟨0x008, 4, s.regs.arg1⟩] } }) ∧
    (∀ x rest, s.regs.argw0 = false → s.draws.words = x :: rest → hostRead 0x004 4 s =
      { s with host := { s.host with seen := s.host.seen ++ [⟨0x004, 4, x⟩] }
               draws := { s.draws with words := rest } }) ∧
    (∀ x rest, s.regs.argw1 = false → s.draws.words = x :: rest → hostRead 0x008 4 s =
      { s with host := { s.host with seen := s.host.seen ++ [⟨0x008, 4, x⟩] }
               draws := { s.draws with words := rest } }) ∧
    (∀ b, Memory.read s.buf i = some b → hostRead off 1 s =
      { s with host := { s.host with seen := s.host.seen ++ [⟨off, 1, b.zeroExtend 32⟩] } }) ∧
    (∀ d rest, Memory.read s.buf i = none → s.draws.bytes = d :: rest → hostRead off 1 s =
      { s with host := { s.host with seen := s.host.seen ++ [⟨off, 1, d.zeroExtend 32⟩] }
               draws := { s.draws with bytes := rest } })

/-- R77: no read has a side effect: whatever its offset and width, a HOST read changes at most what the HOST has seen, the
model faults and the draws taken; the ENGINE's state and every byte of the buffer are unchanged. -/
def Obligations.ReadsHaveNoSideEffect : Prop :=
  ∀ (s : State) (off : Offset) (width : Nat),
    ∃ seen faults draws, hostRead off width s =
      { s with host := { s.host with seen := seen }, faults := faults, draws := draws }

/-- R215, R216: SET_BUFFER, which the assembler refuses exactly when the data is longer than the buffer, overwrites the
prefix its data covers and leaves every other byte untouched, by one HOST step a byte. -/
def Obligations.SetBufferWritesThePrefix : Prop :=
  ∀ (s : State) (data : List Byte) (prog : List Access), s.params.lineFits = true →
    (Asm.expand s.params (.setBuffer data) = none ↔ s.params.bytesPerLine < data.length) ∧
    (Asm.expand s.params (.setBuffer data) = some prog → quiet (s.setHost { s.host with program := [] }) = true →
      s.seq.busy = false → s.host.program = prog →
      ∃ t, Runs data.length s t ∧ t = { s with host := { s.host with program := [] }, buf := t.buf } ∧
        (∀ i, i < data.length → Memory.read t.buf i = data[i]?) ∧
        (∀ j, data.length ≤ j → Memory.read t.buf j = Memory.read s.buf j))

/-! ### What holds of every step -/

/-- R33, R40: every step keeps the channel invariant: PTX plays only on a consumed channel, with its waveform, and the
pulse line is PLAYING exactly then; the line is UNKNOWN exactly until the channel is initialized. -/
def Obligations.StepKeepsChannelInvariant : Prop :=
  ∀ s t : State, PulseInv s.pulse → SeqInv s → step s = .next t → PulseInv t.pulse

/-- R30, R31, R34, R135: every step keeps SEQ's invariant and the DMA agent's: a running command's `upc` names a uop of
its list that may be waiting for what SEQ waits for, `ERR` is 0 while it runs, an idle SEQ waits for nothing, and a row
transfer in progress has SEQ waiting for it. -/
def Obligations.StepKeepsSequencerInvariant : Prop :=
  ∀ s t : State, SeqInv s → DmaInv s → step s = .next t → SeqInv t ∧ DmaInv t

/-- R35, R72: every step keeps the row buffer's canonical form and keeps it within `BYTES_PER_LINE`. -/
def Obligations.StepKeepsBufferForm : Prop :=
  ∀ s t : State, BufInv s → step s = .next t → BufInv t

/-- R43, R41: after every step the lines and the panel are what the trace says they are. -/
def Obligations.StepKeepsPanelReplay : Prop :=
  ∀ s t : State, TraceInv s → step s = .next t → TraceInv t

/-- The invariants hold at reset, and the parameters of the machine after reset meet R8. -/
def Obligations.ResetMeetsInvariants : Prop :=
  PulseInv State.reset.pulse ∧ SeqInv State.reset ∧ DmaInv State.reset ∧ BufInv State.reset ∧
  TraceInv State.reset ∧ State.reset.params.wf = true

/-- R60, R300: reset, every piece of state for which the spec gives a value. -/
def Obligations.ResetState : Prop :=
  State.reset.cfg = 0x12 ∧ State.reset.pulse = ⟨.uninitialized, false, none, .unknown⟩ ∧
  State.reset.regs.argw0 = false ∧ State.reset.regs.argw1 = false ∧
  State.reset.seq.busy = false ∧ State.reset.seq.hold = .none ∧ State.reset.seq.err = .none ∧
  State.reset.dma = ⟨false, none⟩ ∧ (∀ i, Memory.read State.reset.buf i = none) ∧
  State.reset.lines = ⟨.unknown, .unknown, .unknown⟩ ∧
  State.reset.panel = ⟨PanelByte.unknown, PanelByte.unknown⟩ ∧ State.reset.trace = [] ∧
  State.reset.phase = .off ∧ State.reset.faults = []

/-- R50, R271, R46: no step takes anything back: the trace and what the HOST has seen only grow at their ends, and a model
fault once recorded stays. The parameters never change. -/
def Obligations.StepsOnlyAddHistory : Prop :=
  ∀ s t : State, step s = .next t →
    (∃ evs, t.trace = s.trace ++ evs) ∧ (∃ obs, t.host.seen = s.host.seen ++ obs) ∧
    (∀ k, k ∈ s.faults → k ∈ t.faults) ∧ t.params = s.params

/-- R25, R21, R217, R180, R201: who may change what. The HOST's, PTX's and DMA's steps never change CFG, the configuration
lines or the panel; no step but the HOST's changes an operand register, a byte of the row buffer or the HOST's side; the
HOST's never change the pulse channel, PTX or the DMA state; PTX changes the pulse side alone beside the trace, not the
channel's ownership; DMA changes its own state alone beside the trace and the draws. -/
def Obligations.AgentsKeepToTheirState : Prop :=
  ∀ (a : Agent) (s t : State), agentStep a s = .next t →
    (a ≠ .seq → t.cfg = s.cfg ∧ t.lines = s.lines ∧ t.panel = s.panel) ∧
    (a ≠ .host → t.regs = s.regs ∧ t.host = s.host ∧ ∀ i, Memory.read t.buf i = Memory.read s.buf i) ∧
    (a = .host → t.pulse = s.pulse ∧ t.dma = s.dma) ∧
    (a = .ptx → t = { s with pulse := t.pulse, trace := t.trace } ∧ t.pulse.ch = s.pulse.ch) ∧
    (a = .dma → t = { s with dma := t.dma, trace := t.trace, draws := t.draws })

/-- R32: the channel never returns to Uninitialized. -/
def Obligations.ChannelStaysInitialized : Prop :=
  ∀ s t : State, step s = .next t → s.pulse.ch ≠ .uninitialized → t.pulse.ch ≠ .uninitialized

/-- R32, R179 and 90_conflicts.md C1: a consumed channel comes back only in a step of SEQ that takes a completion answer,
at a RECLAIM uop or at a waited PULSE uop, with no waveform playing; the end of the transmission alone returns nothing. -/
def Obligations.ChannelReturnsOnlyOnReclaim : Prop :=
  ∀ s t : State, SeqInv s → step s = .next t → s.pulse.ch = .inFlight → t.pulse.ch ≠ .inFlight →
    s.seq.busy = true ∧ s.pulse.active = false ∧
    ∃ u, currentUop s = some u ∧ (u = .reclaim ∨ ∃ h l, u = .pulse h l true ∧ s.seq.hold = .pulseDone)

/-- R261: the engine errors each command can end with once it runs: POWER_ON and POWER_OFF with none; FRAME_START,
FRAME_END and SKIP with 1 or 2; OUTPUT_ROW with 1, 2 or 3; PULSE with 1 or 2; RECLAIM with 1. -/
def Obligations.ErrorsByCommand : Prop :=
  ∀ (s t : State) (i : Instr), SeqInv s → step s = .next t → s.seq.busy = true → t.seq.busy = false →
    currentCommand s = some i →
    (match i with
      | .powerOn | .powerOff => t.seq.err = .none
      | .frameStart | .frameEnd | .skip | .pulse _ =>
        t.seq.err = .none ∨ t.seq.err = .pulseConfig ∨ t.seq.err = .channelUnavailable
      | .outputRow => t.seq.err ≠ .illegalCommand
      | .reclaim => t.seq.err = .none ∨ t.seq.err = .pulseConfig)

/-- R142, R301: a final state stays as it is (an idle ENGINE waits for the HOST: notes/assumptions/8). -/
def Obligations.FinalStatesRest : Prop :=
  ∀ s : State, s.final = true → ∀ n, Runs n s s

/-- R271: after `MF(DUR_RANGE)` inside a uop, with the HOST's program over and nothing pending, the run is stuck. -/
def Obligations.StuckAfterLongDuration : Prop :=
  ∀ s : State, s.seq.busy = true → .durRange ∈ s.faults → s.host.program = [] ∨ (∃ r, s.host.program = .waitIdle :: r) →
    s.pulse.active = false → s.dma.active = false → step s = .fault .stuck
end

