-- ==== Sys2Proof/Laws/Memory.lean ====
section
/-! SUPPORT. The laws of the row buffer's memory (R35): read after write, and that a write keeps the canonical form and
the buffer's bound. -/

namespace Sys2Proof.Machine.Memory

@[simp] theorem read_nil (i : Nat) : read [] i = none := rfl

theorem read_cons (c : Host.Cell) (m : Memory) (i : Nat) :
    read (c :: m) i = if c.1 = i then some c.2 else read m i := rfl

/-- A read after a write to the same index gives the byte written. -/
@[simp] theorem read_write_same (m : Memory) (i : Nat) (b : Byte) : read (write m i b) i = some b := by
  induction m with
  | nil => simp [write, read]
  | cons c m ih =>
    obtain ⟨j, c⟩ := c
    simp only [write]
    split
    · simp [read]
    · split
      · simp [read]
      · have h : j ≠ i := fun e => by simp_all
        simp [read, h, ih]

/-- A write leaves every other index alone. -/
theorem read_write_other (m : Memory) {i j : Nat} (b : Byte) (h : j ≠ i) : read (write m i b) j = read m j := by
  have h' : ¬ i = j := fun e => h e.symm
  induction m with
  | nil => simp [write, read, unlisted, h']
  | cons c m ih =>
    obtain ⟨k, c⟩ := c
    simp only [write]
    split
    · simp [read, h']
    · split
      · rename_i _ e
        subst e
        simp [read, h']
      · simp [read, ih]

/-- A property of every index that holds of the index written and of the indexes there holds after the write. -/
theorem all_write (q : Host.Cell → Bool) (m : Memory) (i : Nat) (b : Byte) (hi : q (i, b) = true)
    (hm : m.all q = true) : (write m i b).all q = true := by
  induction m with
  | nil => simp [write, hi]
  | cons c m ih =>
    obtain ⟨k, c⟩ := c
    simp only [List.all_cons, Bool.and_eq_true] at hm
    simp only [write]
    split
    · simp only [List.all_cons, Bool.and_eq_true]
      exact ⟨hi, hm⟩
    · split
      · simp only [List.all_cons, Bool.and_eq_true]
        exact ⟨hi, hm.2⟩
      · simp only [List.all_cons, Bool.and_eq_true]
        exact ⟨hm.1, ih hm.2⟩

/-- A write keeps the canonical form: indexes strictly rising. -/
theorem wf_write (m : Memory) (i : Nat) (b : Byte) (h : wf m = true) : wf (write m i b) = true := by
  induction m with
  | nil => simp [write, wf]
  | cons c m ih =>
    obtain ⟨k, c⟩ := c
    simp only [wf, Bool.and_eq_true] at h
    simp only [write]
    split
    · rename_i lt
      simp only [wf, List.all_cons, Bool.and_eq_true, decide_eq_true_eq]
      refine ⟨⟨lt, ?_⟩, h⟩
      rw [List.all_eq_true] at h ⊢
      exact fun x hx => decide_eq_true (lt.trans (of_decide_eq_true (h.1 x hx)))
    · split
      · rename_i _ e
        subst e
        simp only [wf, Bool.and_eq_true]
        exact h
      · rename_i nlt ne
        simp only [wf, Bool.and_eq_true]
        exact ⟨all_write _ m i b (decide_eq_true (by omega)) h.1, ih h.2⟩

/-- A write inside a buffer of `n` bytes keeps the memory within it. -/
theorem within_write {n : Nat} (m : Memory) (i : Nat) (b : Byte) (hi : i < n) (h : within n m = true) :
    within n (write m i b) = true :=
  all_write _ m i b (decide_eq_true hi) h

/-- The empty buffer of reset has the canonical form. -/
theorem wf_nil : wf [] = true := rfl

end Sys2Proof.Machine.Memory
end

