-- ==== Sys2Proof/Laws/State.lean ====
section
/-! SUPPORT. One lemma per field per named update of State, each true by rfl, so that no proof unfolds a record update. -/

namespace Sys2Proof.Machine.State

variable (s : State)

@[simp] theorem setHost_params (x : HostSide) : (s.setHost x).params = s.params := rfl
@[simp] theorem setHost_host (x : HostSide) : (s.setHost x).host = x := rfl
@[simp] theorem setHost_regs (x : HostSide) : (s.setHost x).regs = s.regs := rfl
@[simp] theorem setHost_cfg (x : HostSide) : (s.setHost x).cfg = s.cfg := rfl
@[simp] theorem setHost_seq (x : HostSide) : (s.setHost x).seq = s.seq := rfl
@[simp] theorem setHost_pulse (x : HostSide) : (s.setHost x).pulse = s.pulse := rfl
@[simp] theorem setHost_dma (x : HostSide) : (s.setHost x).dma = s.dma := rfl
@[simp] theorem setHost_buf (x : HostSide) : (s.setHost x).buf = s.buf := rfl
@[simp] theorem setHost_lines (x : HostSide) : (s.setHost x).lines = s.lines := rfl
@[simp] theorem setHost_panel (x : HostSide) : (s.setHost x).panel = s.panel := rfl
@[simp] theorem setHost_phase (x : HostSide) : (s.setHost x).phase = s.phase := rfl
@[simp] theorem setHost_faults (x : HostSide) : (s.setHost x).faults = s.faults := rfl
@[simp] theorem setHost_trace (x : HostSide) : (s.setHost x).trace = s.trace := rfl
@[simp] theorem setHost_draws (x : HostSide) : (s.setHost x).draws = s.draws := rfl
@[simp] theorem setHost_self : s.setHost s.host = s := rfl
@[simp] theorem setHost_setHost (x y : HostSide) : (s.setHost x).setHost y = s.setHost y := rfl

@[simp] theorem setRegs_params (x : Regs) : (s.setRegs x).params = s.params := rfl
@[simp] theorem setRegs_host (x : Regs) : (s.setRegs x).host = s.host := rfl
@[simp] theorem setRegs_regs (x : Regs) : (s.setRegs x).regs = x := rfl
@[simp] theorem setRegs_cfg (x : Regs) : (s.setRegs x).cfg = s.cfg := rfl
@[simp] theorem setRegs_seq (x : Regs) : (s.setRegs x).seq = s.seq := rfl
@[simp] theorem setRegs_pulse (x : Regs) : (s.setRegs x).pulse = s.pulse := rfl
@[simp] theorem setRegs_dma (x : Regs) : (s.setRegs x).dma = s.dma := rfl
@[simp] theorem setRegs_buf (x : Regs) : (s.setRegs x).buf = s.buf := rfl
@[simp] theorem setRegs_lines (x : Regs) : (s.setRegs x).lines = s.lines := rfl
@[simp] theorem setRegs_panel (x : Regs) : (s.setRegs x).panel = s.panel := rfl
@[simp] theorem setRegs_phase (x : Regs) : (s.setRegs x).phase = s.phase := rfl
@[simp] theorem setRegs_faults (x : Regs) : (s.setRegs x).faults = s.faults := rfl
@[simp] theorem setRegs_trace (x : Regs) : (s.setRegs x).trace = s.trace := rfl
@[simp] theorem setRegs_draws (x : Regs) : (s.setRegs x).draws = s.draws := rfl
@[simp] theorem setRegs_self : s.setRegs s.regs = s := rfl
@[simp] theorem setRegs_setRegs (x y : Regs) : (s.setRegs x).setRegs y = s.setRegs y := rfl

@[simp] theorem setCfg_params (x : Byte) : (s.setCfg x).params = s.params := rfl
@[simp] theorem setCfg_host (x : Byte) : (s.setCfg x).host = s.host := rfl
@[simp] theorem setCfg_regs (x : Byte) : (s.setCfg x).regs = s.regs := rfl
@[simp] theorem setCfg_cfg (x : Byte) : (s.setCfg x).cfg = x := rfl
@[simp] theorem setCfg_seq (x : Byte) : (s.setCfg x).seq = s.seq := rfl
@[simp] theorem setCfg_pulse (x : Byte) : (s.setCfg x).pulse = s.pulse := rfl
@[simp] theorem setCfg_dma (x : Byte) : (s.setCfg x).dma = s.dma := rfl
@[simp] theorem setCfg_buf (x : Byte) : (s.setCfg x).buf = s.buf := rfl
@[simp] theorem setCfg_lines (x : Byte) : (s.setCfg x).lines = s.lines := rfl
@[simp] theorem setCfg_panel (x : Byte) : (s.setCfg x).panel = s.panel := rfl
@[simp] theorem setCfg_phase (x : Byte) : (s.setCfg x).phase = s.phase := rfl
@[simp] theorem setCfg_faults (x : Byte) : (s.setCfg x).faults = s.faults := rfl
@[simp] theorem setCfg_trace (x : Byte) : (s.setCfg x).trace = s.trace := rfl
@[simp] theorem setCfg_draws (x : Byte) : (s.setCfg x).draws = s.draws := rfl
@[simp] theorem setCfg_self : s.setCfg s.cfg = s := rfl
@[simp] theorem setCfg_setCfg (x y : Byte) : (s.setCfg x).setCfg y = s.setCfg y := rfl

@[simp] theorem setSeq_params (x : Seq) : (s.setSeq x).params = s.params := rfl
@[simp] theorem setSeq_host (x : Seq) : (s.setSeq x).host = s.host := rfl
@[simp] theorem setSeq_regs (x : Seq) : (s.setSeq x).regs = s.regs := rfl
@[simp] theorem setSeq_cfg (x : Seq) : (s.setSeq x).cfg = s.cfg := rfl
@[simp] theorem setSeq_seq (x : Seq) : (s.setSeq x).seq = x := rfl
@[simp] theorem setSeq_pulse (x : Seq) : (s.setSeq x).pulse = s.pulse := rfl
@[simp] theorem setSeq_dma (x : Seq) : (s.setSeq x).dma = s.dma := rfl
@[simp] theorem setSeq_buf (x : Seq) : (s.setSeq x).buf = s.buf := rfl
@[simp] theorem setSeq_lines (x : Seq) : (s.setSeq x).lines = s.lines := rfl
@[simp] theorem setSeq_panel (x : Seq) : (s.setSeq x).panel = s.panel := rfl
@[simp] theorem setSeq_phase (x : Seq) : (s.setSeq x).phase = s.phase := rfl
@[simp] theorem setSeq_faults (x : Seq) : (s.setSeq x).faults = s.faults := rfl
@[simp] theorem setSeq_trace (x : Seq) : (s.setSeq x).trace = s.trace := rfl
@[simp] theorem setSeq_draws (x : Seq) : (s.setSeq x).draws = s.draws := rfl
@[simp] theorem setSeq_self : s.setSeq s.seq = s := rfl
@[simp] theorem setSeq_setSeq (x y : Seq) : (s.setSeq x).setSeq y = s.setSeq y := rfl

@[simp] theorem setPulse_params (x : PulseUnit) : (s.setPulse x).params = s.params := rfl
@[simp] theorem setPulse_host (x : PulseUnit) : (s.setPulse x).host = s.host := rfl
@[simp] theorem setPulse_regs (x : PulseUnit) : (s.setPulse x).regs = s.regs := rfl
@[simp] theorem setPulse_cfg (x : PulseUnit) : (s.setPulse x).cfg = s.cfg := rfl
@[simp] theorem setPulse_seq (x : PulseUnit) : (s.setPulse x).seq = s.seq := rfl
@[simp] theorem setPulse_pulse (x : PulseUnit) : (s.setPulse x).pulse = x := rfl
@[simp] theorem setPulse_dma (x : PulseUnit) : (s.setPulse x).dma = s.dma := rfl
@[simp] theorem setPulse_buf (x : PulseUnit) : (s.setPulse x).buf = s.buf := rfl
@[simp] theorem setPulse_lines (x : PulseUnit) : (s.setPulse x).lines = s.lines := rfl
@[simp] theorem setPulse_panel (x : PulseUnit) : (s.setPulse x).panel = s.panel := rfl
@[simp] theorem setPulse_phase (x : PulseUnit) : (s.setPulse x).phase = s.phase := rfl
@[simp] theorem setPulse_faults (x : PulseUnit) : (s.setPulse x).faults = s.faults := rfl
@[simp] theorem setPulse_trace (x : PulseUnit) : (s.setPulse x).trace = s.trace := rfl
@[simp] theorem setPulse_draws (x : PulseUnit) : (s.setPulse x).draws = s.draws := rfl
@[simp] theorem setPulse_self : s.setPulse s.pulse = s := rfl
@[simp] theorem setPulse_setPulse (x y : PulseUnit) : (s.setPulse x).setPulse y = s.setPulse y := rfl

@[simp] theorem setDma_params (x : Dma) : (s.setDma x).params = s.params := rfl
@[simp] theorem setDma_host (x : Dma) : (s.setDma x).host = s.host := rfl
@[simp] theorem setDma_regs (x : Dma) : (s.setDma x).regs = s.regs := rfl
@[simp] theorem setDma_cfg (x : Dma) : (s.setDma x).cfg = s.cfg := rfl
@[simp] theorem setDma_seq (x : Dma) : (s.setDma x).seq = s.seq := rfl
@[simp] theorem setDma_pulse (x : Dma) : (s.setDma x).pulse = s.pulse := rfl
@[simp] theorem setDma_dma (x : Dma) : (s.setDma x).dma = x := rfl
@[simp] theorem setDma_buf (x : Dma) : (s.setDma x).buf = s.buf := rfl
@[simp] theorem setDma_lines (x : Dma) : (s.setDma x).lines = s.lines := rfl
@[simp] theorem setDma_panel (x : Dma) : (s.setDma x).panel = s.panel := rfl
@[simp] theorem setDma_phase (x : Dma) : (s.setDma x).phase = s.phase := rfl
@[simp] theorem setDma_faults (x : Dma) : (s.setDma x).faults = s.faults := rfl
@[simp] theorem setDma_trace (x : Dma) : (s.setDma x).trace = s.trace := rfl
@[simp] theorem setDma_draws (x : Dma) : (s.setDma x).draws = s.draws := rfl
@[simp] theorem setDma_self : s.setDma s.dma = s := rfl
@[simp] theorem setDma_setDma (x y : Dma) : (s.setDma x).setDma y = s.setDma y := rfl

@[simp] theorem setBuf_params (x : Memory) : (s.setBuf x).params = s.params := rfl
@[simp] theorem setBuf_host (x : Memory) : (s.setBuf x).host = s.host := rfl
@[simp] theorem setBuf_regs (x : Memory) : (s.setBuf x).regs = s.regs := rfl
@[simp] theorem setBuf_cfg (x : Memory) : (s.setBuf x).cfg = s.cfg := rfl
@[simp] theorem setBuf_seq (x : Memory) : (s.setBuf x).seq = s.seq := rfl
@[simp] theorem setBuf_pulse (x : Memory) : (s.setBuf x).pulse = s.pulse := rfl
@[simp] theorem setBuf_dma (x : Memory) : (s.setBuf x).dma = s.dma := rfl
@[simp] theorem setBuf_buf (x : Memory) : (s.setBuf x).buf = x := rfl
@[simp] theorem setBuf_lines (x : Memory) : (s.setBuf x).lines = s.lines := rfl
@[simp] theorem setBuf_panel (x : Memory) : (s.setBuf x).panel = s.panel := rfl
@[simp] theorem setBuf_phase (x : Memory) : (s.setBuf x).phase = s.phase := rfl
@[simp] theorem setBuf_faults (x : Memory) : (s.setBuf x).faults = s.faults := rfl
@[simp] theorem setBuf_trace (x : Memory) : (s.setBuf x).trace = s.trace := rfl
@[simp] theorem setBuf_draws (x : Memory) : (s.setBuf x).draws = s.draws := rfl
@[simp] theorem setBuf_self : s.setBuf s.buf = s := rfl
@[simp] theorem setBuf_setBuf (x y : Memory) : (s.setBuf x).setBuf y = s.setBuf y := rfl

@[simp] theorem setLines_params (x : Lines) : (s.setLines x).params = s.params := rfl
@[simp] theorem setLines_host (x : Lines) : (s.setLines x).host = s.host := rfl
@[simp] theorem setLines_regs (x : Lines) : (s.setLines x).regs = s.regs := rfl
@[simp] theorem setLines_cfg (x : Lines) : (s.setLines x).cfg = s.cfg := rfl
@[simp] theorem setLines_seq (x : Lines) : (s.setLines x).seq = s.seq := rfl
@[simp] theorem setLines_pulse (x : Lines) : (s.setLines x).pulse = s.pulse := rfl
@[simp] theorem setLines_dma (x : Lines) : (s.setLines x).dma = s.dma := rfl
@[simp] theorem setLines_buf (x : Lines) : (s.setLines x).buf = s.buf := rfl
@[simp] theorem setLines_lines (x : Lines) : (s.setLines x).lines = x := rfl
@[simp] theorem setLines_panel (x : Lines) : (s.setLines x).panel = s.panel := rfl
@[simp] theorem setLines_phase (x : Lines) : (s.setLines x).phase = s.phase := rfl
@[simp] theorem setLines_faults (x : Lines) : (s.setLines x).faults = s.faults := rfl
@[simp] theorem setLines_trace (x : Lines) : (s.setLines x).trace = s.trace := rfl
@[simp] theorem setLines_draws (x : Lines) : (s.setLines x).draws = s.draws := rfl
@[simp] theorem setLines_self : s.setLines s.lines = s := rfl
@[simp] theorem setLines_setLines (x y : Lines) : (s.setLines x).setLines y = s.setLines y := rfl

@[simp] theorem setPanel_params (x : Panel) : (s.setPanel x).params = s.params := rfl
@[simp] theorem setPanel_host (x : Panel) : (s.setPanel x).host = s.host := rfl
@[simp] theorem setPanel_regs (x : Panel) : (s.setPanel x).regs = s.regs := rfl
@[simp] theorem setPanel_cfg (x : Panel) : (s.setPanel x).cfg = s.cfg := rfl
@[simp] theorem setPanel_seq (x : Panel) : (s.setPanel x).seq = s.seq := rfl
@[simp] theorem setPanel_pulse (x : Panel) : (s.setPanel x).pulse = s.pulse := rfl
@[simp] theorem setPanel_dma (x : Panel) : (s.setPanel x).dma = s.dma := rfl
@[simp] theorem setPanel_buf (x : Panel) : (s.setPanel x).buf = s.buf := rfl
@[simp] theorem setPanel_lines (x : Panel) : (s.setPanel x).lines = s.lines := rfl
@[simp] theorem setPanel_panel (x : Panel) : (s.setPanel x).panel = x := rfl
@[simp] theorem setPanel_phase (x : Panel) : (s.setPanel x).phase = s.phase := rfl
@[simp] theorem setPanel_faults (x : Panel) : (s.setPanel x).faults = s.faults := rfl
@[simp] theorem setPanel_trace (x : Panel) : (s.setPanel x).trace = s.trace := rfl
@[simp] theorem setPanel_draws (x : Panel) : (s.setPanel x).draws = s.draws := rfl
@[simp] theorem setPanel_self : s.setPanel s.panel = s := rfl
@[simp] theorem setPanel_setPanel (x y : Panel) : (s.setPanel x).setPanel y = s.setPanel y := rfl

@[simp] theorem setPhase_params (x : Phase) : (s.setPhase x).params = s.params := rfl
@[simp] theorem setPhase_host (x : Phase) : (s.setPhase x).host = s.host := rfl
@[simp] theorem setPhase_regs (x : Phase) : (s.setPhase x).regs = s.regs := rfl
@[simp] theorem setPhase_cfg (x : Phase) : (s.setPhase x).cfg = s.cfg := rfl
@[simp] theorem setPhase_seq (x : Phase) : (s.setPhase x).seq = s.seq := rfl
@[simp] theorem setPhase_pulse (x : Phase) : (s.setPhase x).pulse = s.pulse := rfl
@[simp] theorem setPhase_dma (x : Phase) : (s.setPhase x).dma = s.dma := rfl
@[simp] theorem setPhase_buf (x : Phase) : (s.setPhase x).buf = s.buf := rfl
@[simp] theorem setPhase_lines (x : Phase) : (s.setPhase x).lines = s.lines := rfl
@[simp] theorem setPhase_panel (x : Phase) : (s.setPhase x).panel = s.panel := rfl
@[simp] theorem setPhase_phase (x : Phase) : (s.setPhase x).phase = x := rfl
@[simp] theorem setPhase_faults (x : Phase) : (s.setPhase x).faults = s.faults := rfl
@[simp] theorem setPhase_trace (x : Phase) : (s.setPhase x).trace = s.trace := rfl
@[simp] theorem setPhase_draws (x : Phase) : (s.setPhase x).draws = s.draws := rfl
@[simp] theorem setPhase_self : s.setPhase s.phase = s := rfl
@[simp] theorem setPhase_setPhase (x y : Phase) : (s.setPhase x).setPhase y = s.setPhase y := rfl

@[simp] theorem setFaults_params (x : List ModelFault) : (s.setFaults x).params = s.params := rfl
@[simp] theorem setFaults_host (x : List ModelFault) : (s.setFaults x).host = s.host := rfl
@[simp] theorem setFaults_regs (x : List ModelFault) : (s.setFaults x).regs = s.regs := rfl
@[simp] theorem setFaults_cfg (x : List ModelFault) : (s.setFaults x).cfg = s.cfg := rfl
@[simp] theorem setFaults_seq (x : List ModelFault) : (s.setFaults x).seq = s.seq := rfl
@[simp] theorem setFaults_pulse (x : List ModelFault) : (s.setFaults x).pulse = s.pulse := rfl
@[simp] theorem setFaults_dma (x : List ModelFault) : (s.setFaults x).dma = s.dma := rfl
@[simp] theorem setFaults_buf (x : List ModelFault) : (s.setFaults x).buf = s.buf := rfl
@[simp] theorem setFaults_lines (x : List ModelFault) : (s.setFaults x).lines = s.lines := rfl
@[simp] theorem setFaults_panel (x : List ModelFault) : (s.setFaults x).panel = s.panel := rfl
@[simp] theorem setFaults_phase (x : List ModelFault) : (s.setFaults x).phase = s.phase := rfl
@[simp] theorem setFaults_faults (x : List ModelFault) : (s.setFaults x).faults = x := rfl
@[simp] theorem setFaults_trace (x : List ModelFault) : (s.setFaults x).trace = s.trace := rfl
@[simp] theorem setFaults_draws (x : List ModelFault) : (s.setFaults x).draws = s.draws := rfl
@[simp] theorem setFaults_self : s.setFaults s.faults = s := rfl
@[simp] theorem setFaults_setFaults (x y : List ModelFault) : (s.setFaults x).setFaults y = s.setFaults y := rfl

@[simp] theorem setTrace_params (x : List Event) : (s.setTrace x).params = s.params := rfl
@[simp] theorem setTrace_host (x : List Event) : (s.setTrace x).host = s.host := rfl
@[simp] theorem setTrace_regs (x : List Event) : (s.setTrace x).regs = s.regs := rfl
@[simp] theorem setTrace_cfg (x : List Event) : (s.setTrace x).cfg = s.cfg := rfl
@[simp] theorem setTrace_seq (x : List Event) : (s.setTrace x).seq = s.seq := rfl
@[simp] theorem setTrace_pulse (x : List Event) : (s.setTrace x).pulse = s.pulse := rfl
@[simp] theorem setTrace_dma (x : List Event) : (s.setTrace x).dma = s.dma := rfl
@[simp] theorem setTrace_buf (x : List Event) : (s.setTrace x).buf = s.buf := rfl
@[simp] theorem setTrace_lines (x : List Event) : (s.setTrace x).lines = s.lines := rfl
@[simp] theorem setTrace_panel (x : List Event) : (s.setTrace x).panel = s.panel := rfl
@[simp] theorem setTrace_phase (x : List Event) : (s.setTrace x).phase = s.phase := rfl
@[simp] theorem setTrace_faults (x : List Event) : (s.setTrace x).faults = s.faults := rfl
@[simp] theorem setTrace_trace (x : List Event) : (s.setTrace x).trace = x := rfl
@[simp] theorem setTrace_draws (x : List Event) : (s.setTrace x).draws = s.draws := rfl
@[simp] theorem setTrace_self : s.setTrace s.trace = s := rfl
@[simp] theorem setTrace_setTrace (x y : List Event) : (s.setTrace x).setTrace y = s.setTrace y := rfl

@[simp] theorem setDraws_params (x : Draws) : (s.setDraws x).params = s.params := rfl
@[simp] theorem setDraws_host (x : Draws) : (s.setDraws x).host = s.host := rfl
@[simp] theorem setDraws_regs (x : Draws) : (s.setDraws x).regs = s.regs := rfl
@[simp] theorem setDraws_cfg (x : Draws) : (s.setDraws x).cfg = s.cfg := rfl
@[simp] theorem setDraws_seq (x : Draws) : (s.setDraws x).seq = s.seq := rfl
@[simp] theorem setDraws_pulse (x : Draws) : (s.setDraws x).pulse = s.pulse := rfl
@[simp] theorem setDraws_dma (x : Draws) : (s.setDraws x).dma = s.dma := rfl
@[simp] theorem setDraws_buf (x : Draws) : (s.setDraws x).buf = s.buf := rfl
@[simp] theorem setDraws_lines (x : Draws) : (s.setDraws x).lines = s.lines := rfl
@[simp] theorem setDraws_panel (x : Draws) : (s.setDraws x).panel = s.panel := rfl
@[simp] theorem setDraws_phase (x : Draws) : (s.setDraws x).phase = s.phase := rfl
@[simp] theorem setDraws_faults (x : Draws) : (s.setDraws x).faults = s.faults := rfl
@[simp] theorem setDraws_trace (x : Draws) : (s.setDraws x).trace = s.trace := rfl
@[simp] theorem setDraws_draws (x : Draws) : (s.setDraws x).draws = x := rfl
@[simp] theorem setDraws_self : s.setDraws s.draws = s := rfl
@[simp] theorem setDraws_setDraws (x y : Draws) : (s.setDraws x).setDraws y = s.setDraws y := rfl

end Sys2Proof.Machine.State
end

