-- ==== Sys2Proof/Laws/Ops.lean ====
section
/-! SUPPORT. One lemma per shared operation: everything it can do. -/

namespace Sys2Proof.Machine

@[simp] theorem mem_recordFault_self (k : ModelFault) (s : State) : k ∈ (recordFault k s).faults := by
  unfold recordFault
  split <;> simp_all

/-- Recording a model fault changes the fault set alone. -/
theorem recordFault_eq (k : ModelFault) (s : State) :
    recordFault k s = s.setFaults (if k ∈ s.faults then s.faults else s.faults ++ [k]) := by
  unfold recordFault
  split <;> rfl

/-- A fault already recorded stays recorded. -/
theorem mem_recordFault_of_mem {k j : ModelFault} {s : State} (h : k ∈ s.faults) : k ∈ (recordFault j s).faults := by
  rw [recordFault_eq]
  simp only [State.setFaults_faults]
  split
  · exact h
  · exact List.mem_append_left _ h

/-! Draws: a supplied value is the one taken, and only the draws change. -/

theorem nextAnswer_of_supplied {s : State} {a : Answer} {r : List Answer} (h : s.draws.answers = a :: r) :
    nextAnswer s = a ∧ spendAnswer s = s.setDraws { s.draws with answers := r } := by
  simp [nextAnswer, spendAnswer, h]

theorem nextOwner_of_supplied {s : State} {a : Owner} {r : List Owner} (h : s.draws.owners = a :: r) :
    nextOwner s = a ∧ spendOwner s = s.setDraws { s.draws with owners := r } := by
  simp [nextOwner, spendOwner, h]

theorem nextBusResult_of_supplied {s : State} {a : BusResult} {r : List BusResult}
    (h : s.draws.busResults = a :: r) :
    nextBusResult s = a ∧ spendBusResult s = s.setDraws { s.draws with busResults := r } := by
  simp [nextBusResult, spendBusResult, h]

theorem nextByte_of_supplied {s : State} {a : Byte} {r : List Byte} (h : s.draws.bytes = a :: r) :
    nextByte s = a ∧ spendByte s = s.setDraws { s.draws with bytes := r } := by
  simp [nextByte, spendByte, h]

theorem nextWord_of_supplied {s : State} {a : Word} {r : List Word} (h : s.draws.words = a :: r) :
    nextWord s = a ∧ spendWord s = s.setDraws { s.draws with words := r } := by
  simp [nextWord, spendWord, h]

theorem nextTurn_of_supplied {s : State} {a : Agent} {r : List Agent} (h : s.draws.turns = a :: r) :
    nextTurn s = a ∧ spendTurn s = s.setDraws { s.draws with turns := r } := by
  simp [nextTurn, spendTurn, h]

theorem spendAnswer_eq (s : State) : ∃ d, spendAnswer s = s.setDraws d := ⟨_, rfl⟩
theorem spendOwner_eq (s : State) : ∃ d, spendOwner s = s.setDraws d := ⟨_, rfl⟩
theorem spendBusResult_eq (s : State) : ∃ d, spendBusResult s = s.setDraws d := ⟨_, rfl⟩
theorem spendByte_eq (s : State) : ∃ d, spendByte s = s.setDraws d := ⟨_, rfl⟩
theorem spendWord_eq (s : State) : ∃ d, spendWord s = s.setDraws d := ⟨_, rfl⟩
theorem spendTurn_eq (s : State) : ∃ d, spendTurn s = s.setDraws d := ⟨_, rfl⟩

/-- Sending row bytes changes the draws alone. -/
theorem spendRow_eq : ∀ (n i : Nat) (s : State), ∃ d, spendRow n i s = s.setDraws d
  | 0, _, s => ⟨s.draws, rfl⟩
  | n + 1, i, s => by
    obtain ⟨d, hd⟩ : ∃ d, spendRowByte i s = s.setDraws d := by
      unfold spendRowByte
      split
      · exact ⟨s.draws, rfl⟩
      · exact spendByte_eq s
    obtain ⟨e, he⟩ := spendRow_eq n (i + 1) (spendRowByte i s)
    exact ⟨e, by rw [spendRow, he, hd]; rfl⟩

/-- A GPIO write changes the trace, the panel and the lines alone. -/
theorem gpio_eq (line : Line) (b : Bool) (s : State) : gpio line b s =
    { s with trace := s.trace ++ [.gpio line b], panel := s.panel.observe s.lines line b,
             lines := s.lines.drive line b } := rfl

/-- SHIFT (R151): its 26 events, the lines at rest, the panel holding CFG; nothing else. -/
theorem shiftUop_eq (s : State) : shiftUop s =
    { s with trace := s.trace ++ shiftEvents s.cfg, lines := restLines s.cfg, panel := panelHolding s.cfg } := by
  simp [shiftUop, shiftOrder, shiftBit, gpio_eq, shiftEvents, shiftBitEvents, restLines, panelHolding, Lines.drive,
    Panel.observe, PanelByte.shiftIn, PanelByte.ofByte, Level.ofBool]

/-- DELAY (R137): its event, if any. -/
theorem delayUop_eq (n : Word) (s : State) : delayUop n s = { s with trace := s.trace ++ delayEvents n } := by
  unfold delayUop delayEvents
  split
  · simp
  · rfl

/-- What issue can do (R131): busy; absent; an unwritten operand; an operand out of range; begun. -/
theorem issue_cases (i : Instr) (present : Bool) (s : State) :
    (s.seq.busy = true ∧ issue i present s = recordFault .cmdBusy s) ∨
    (s.seq.busy = false ∧
      ((present = false ∧ issue i present s = endIllegal (latchCommand (opOf i) (waitOf i) s)) ∨
       (present = true ∧ someUnwritten (argReads i) s.regs = true ∧
         issue i present s = recordFault .argUnwritten (latchCommand (opOf i) (waitOf i) s)) ∨
       (present = true ∧ someUnwritten (argReads i) s.regs = false ∧ someOutOfRange (argReads i) s.regs = true ∧
         issue i present s = endIllegal (latchCommand (opOf i) (waitOf i) s)) ∨
       (present = true ∧ someUnwritten (argReads i) s.regs = false ∧ someOutOfRange (argReads i) s.regs = false ∧
         issue i present s = beginCommand i (latchCommand (opOf i) (waitOf i) s)))) := by
  have hr : (latchCommand (opOf i) (waitOf i) s).regs = s.regs := rfl
  unfold issue
  cases hb : s.seq.busy
  · cases present <;> simp only [hr, Bool.not_false, Bool.not_true, if_true, if_false, Bool.false_eq_true] <;> simp
    cases someUnwritten (argReads i) s.regs <;> simp
    cases someOutOfRange (argReads i) s.regs <;> simp
  · simp

/-- Every command's meaning is an issue: it always answers a next state. -/
theorem exec_eq_issue (i : Instr) (s : State) :
    exec i s = .next (issue i (if i = .reclaim then s.params.reclaimPresent else true) s) := by
  cases i <;> rfl

/-- A command that is not RECLAIM is always present. -/
theorem exec_isNext (i : Instr) (s : State) : ∃ t, exec i s = .next t := ⟨_, exec_eq_issue i s⟩

end Sys2Proof.Machine
end

