-- ==== Sys2Proof/Laws/PerInstr.lean ====
section
/-! SUPPORT. The family of lemmas about each command as syntax: its word decodes to it and lies in its row of the opcode
table (R102, R109). -/

namespace Sys2Proof.Laws.RowWord

/-- The command's word decodes to the command and matches its row of spec/opcode_table.json; the table's decoder reads it
from the row's 32 bits. -/
def Statement (i : Instr) : Prop :=
  decodeWord (encode i) = .ok i ∧ encode i &&& tableMask i = tableMatch i ∧
    decodeTableWord 32 (encode i).toNat = some i

theorem powerOn : Statement .powerOn := by refine ⟨?_, ?_, ?_⟩ <;> decide
theorem powerOff : Statement .powerOff := by refine ⟨?_, ?_, ?_⟩ <;> decide
theorem frameStart : Statement .frameStart := by refine ⟨?_, ?_, ?_⟩ <;> decide
theorem frameEnd : Statement .frameEnd := by refine ⟨?_, ?_, ?_⟩ <;> decide
theorem outputRow : Statement .outputRow := by refine ⟨?_, ?_, ?_⟩ <;> decide
theorem skip : Statement .skip := by refine ⟨?_, ?_, ?_⟩ <;> decide
theorem pulse (w : Bool) : Statement (.pulse w) := by cases w <;> (refine ⟨?_, ?_, ?_⟩ <;> decide)
theorem reclaim : Statement .reclaim := by refine ⟨?_, ?_, ?_⟩ <;> decide

end Sys2Proof.Laws.RowWord
end

