-- ==== Sys2Proof/Laws/Row.lean ====
section
/-! SUPPORT. The row that DMA_ROW sends (R200): how long it is, and what of the state it depends on. -/

namespace Sys2Proof.Machine

theorem rowBytes_length (n i : Nat) (s : State) : (rowBytes n i s).length = n := by
  induction n generalizing i s with
  | zero => rfl
  | succ n ih => rw [rowBytes, List.length_cons, ih]

/-- Two states with one buffer, the same supplied bytes and the same draw count send the same byte `i`, and are left with the
same supplied bytes and draw count. -/
theorem rowByte_congr (i : Nat) {s t : State} (hb : s.buf = t.buf) (hy : s.draws.bytes = t.draws.bytes)
    (hn : s.draws.drawn = t.draws.drawn) : rowByte i s = rowByte i t ∧
    ∃ b k, spendRowByte i s = s.setDraws { s.draws with bytes := b, drawn := k } ∧
      spendRowByte i t = t.setDraws { t.draws with bytes := b, drawn := k } := by
  refine ⟨by simp [rowByte, nextByte, hb, hy, hn], ?_⟩
  simp only [spendRowByte, hb]
  split
  · exact ⟨s.draws.bytes, s.draws.drawn, rfl, by rw [hy, hn]; rfl⟩
  · cases hx : t.draws.bytes with
    | nil =>
      refine ⟨[], t.draws.drawn + 1, ?_, ?_⟩
      · simp [spendByte, hy, hx, Draws.count, hn]
      · simp [spendByte, hx, Draws.count]
    | cons x r =>
      refine ⟨r, t.draws.drawn, ?_, ?_⟩
      · simp [spendByte, hy, hx, ← hn]
      · simp [spendByte, hx]

/-- The same of a stretch of the row. -/
theorem row_congr (n i : Nat) {s t : State} (hb : s.buf = t.buf) (hy : s.draws.bytes = t.draws.bytes)
    (hn : s.draws.drawn = t.draws.drawn) : rowBytes n i s = rowBytes n i t ∧
    ∃ b k, spendRow n i s = s.setDraws { s.draws with bytes := b, drawn := k } ∧
      spendRow n i t = t.setDraws { t.draws with bytes := b, drawn := k } := by
  induction n generalizing i s t with
  | zero => exact ⟨rfl, s.draws.bytes, s.draws.drawn, rfl, by rw [hy, hn]; rfl⟩
  | succ n ih =>
    obtain ⟨h0, b, k, e1, e2⟩ := rowByte_congr i hb hy hn
    obtain ⟨h1, b', k', e3, e4⟩ := ih (i + 1) (s := spendRowByte i s) (t := spendRowByte i t)
      (by rw [e1, e2]; exact hb) (by rw [e1, e2]; rfl) (by rw [e1, e2]; rfl)
    refine ⟨by rw [rowBytes, rowBytes, h0, h1], b', k', ?_, ?_⟩
    · rw [spendRow, e3, e1]
      rfl
    · rw [spendRow, e4, e2]
      rfl

end Sys2Proof.Machine
end

