-- ==== Sys2Proof/Laws/Uop.lean ====
section
/-! SUPPORT. What a uop and its resume part can do: one lemma that lists the ends of each, and the frame of all. -/

namespace Sys2Proof.Machine

/-- The state a uop leaves, however it ends. -/
def UopEnd.state : UopEnd → State
  | .done s | .held _ s | .error _ s | .stopped s => s

/-- A failed submission or completion changes the channel's owner and the draws alone. -/
theorem drawOwner_eq (s : State) : ∃ d, drawOwner s =
    { s with pulse := { s.pulse with ch := Owner.channel (nextOwner s) }, draws := d } := ⟨_, rfl⟩

/-- What a submission can do (R177, R178, R179). -/
theorem submitPulse_cases (h l : Half) (wt : Bool) (s : State) :
    (nextAnswer s = .fail ∧ submitPulse h l wt s = .error .pulseConfig (drawOwner (spendAnswer s))) ∨
    (nextAnswer s = .ok ∧ wt = true ∧ submitPulse h l wt s = .held .pulseDone (startPulse h l (spendAnswer s))) ∨
    (nextAnswer s = .ok ∧ wt = false ∧ submitPulse h l wt s = .done (startPulse h l (spendAnswer s))) := by
  unfold submitPulse
  cases nextAnswer s <;> cases wt <;> simp

/-- What a PULSE uop can do (R182), its checks in order. -/
theorem pulseUop_cases (h l : Half) (wt : Bool) (s : State) :
    ((s.params.pulseMaxTicks < h ∨ s.params.pulseMaxTicks < l) ∧
      pulseUop h l wt s = .stopped (recordFault .durRange s)) ∨
    ((h ≤ s.params.pulseMaxTicks ∧ l ≤ s.params.pulseMaxTicks) ∧
      ((s.pulse.ch = .inFlight ∧ pulseUop h l wt s = .error .channelUnavailable s) ∨
       (s.pulse.ch = .uninitialized ∧ nextAnswer s = .fail ∧
         pulseUop h l wt s = .error .pulseConfig (spendAnswer s)) ∨
       (s.pulse.ch = .uninitialized ∧ nextAnswer s = .ok ∧
         pulseUop h l wt s = submitPulse h l wt (initChannel (spendAnswer s))) ∨
       (s.pulse.ch = .idle ∧ pulseUop h l wt s = submitPulse h l wt s))) := by
  by_cases hr : s.params.pulseMaxTicks < h ∨ s.params.pulseMaxTicks < l
  · left
    refine ⟨hr, ?_⟩
    have : (decide (s.params.pulseMaxTicks < h) || decide (s.params.pulseMaxTicks < l)) = true := by simpa using hr
    simp [pulseUop, this]
  · right
    have hle : h ≤ s.params.pulseMaxTicks ∧ l ≤ s.params.pulseMaxTicks := by
      simpa [not_or, BitVec.not_lt] using hr
    refine ⟨hle, ?_⟩
    have hno : (decide (s.params.pulseMaxTicks < h) || decide (s.params.pulseMaxTicks < l)) = false := by
      simpa [BitVec.not_lt] using hle
    cases hc : s.pulse.ch <;> cases ha : nextAnswer s <;> simp [pulseUop, hno, hc, ha]

/-- What taking a completion answer can do (R178, R186). -/
theorem takeCompletion_cases (s : State) :
    (nextAnswer s = .ok ∧ takeCompletion s = .done ((spendAnswer s).setPulse { s.pulse with ch := .idle })) ∨
    (nextAnswer s = .fail ∧ takeCompletion s = .error .pulseConfig (drawOwner (spendAnswer s))) := by
  unfold takeCompletion
  cases nextAnswer s <;> simp

/-- No uop changes the HOST's side, the operand registers, SEQ, the row buffer, the phase or the parameters: SEQ's own
registers move only by what follows the uop's end. -/
theorem runUop_frame (u : Uop) (s : State) :
    let t := (runUop u s).state
    t.params = s.params ∧ t.host = s.host ∧ t.regs = s.regs ∧ t.seq = s.seq ∧ t.buf = s.buf ∧ t.phase = s.phase := by
  cases u with
  | setf f b => exact ⟨rfl, rfl, rfl, rfl, rfl, rfl⟩
  | shift => simp [runUop, UopEnd.state, shiftUop_eq]
  | delay n => simp [runUop, UopEnd.state, delayUop_eq]
  | pulse h l wt =>
    have sub : ∀ r : State, (submitPulse h l wt r).state.params = r.params ∧ (submitPulse h l wt r).state.host = r.host ∧
        (submitPulse h l wt r).state.regs = r.regs ∧ (submitPulse h l wt r).state.seq = r.seq ∧
        (submitPulse h l wt r).state.buf = r.buf ∧ (submitPulse h l wt r).state.phase = r.phase := by
      intro r
      obtain ⟨-, e⟩ | ⟨-, -, e⟩ | ⟨-, -, e⟩ := submitPulse_cases h l wt r <;> rw [e] <;>
        exact ⟨rfl, rfl, rfl, rfl, rfl, rfl⟩
    obtain ⟨-, e⟩ | ⟨-, ⟨-, e⟩ | ⟨-, -, e⟩ | ⟨-, -, e⟩ | ⟨-, e⟩⟩ := pulseUop_cases h l wt s <;>
      simp only [runUop, e]
    · simp [UopEnd.state, recordFault_eq]
    · exact ⟨rfl, rfl, rfl, rfl, rfl, rfl⟩
    · exact ⟨rfl, rfl, rfl, rfl, rfl, rfl⟩
    · exact sub (initChannel (spendAnswer s))
    · exact sub s
  | reclaim =>
    simp only [runUop, reclaimUop]
    split
    · exact ⟨rfl, rfl, rfl, rfl, rfl, rfl⟩
    · split
      · exact ⟨rfl, rfl, rfl, rfl, rfl, rfl⟩
      · obtain ⟨-, e⟩ | ⟨-, e⟩ := takeCompletion_cases s <;> rw [resumeReclaim, e] <;>
          exact ⟨rfl, rfl, rfl, rfl, rfl, rfl⟩
  | dmaRow =>
    obtain ⟨d, e⟩ := spendRow_eq s.params.bytesPerLine 0 s
    simp [runUop, dmaRowUop, UopEnd.state, emit, e]

/-- Nor does a resume part. -/
theorem resumeUop_frame {u : Uop} {s : State} {r : UopEnd} (h : resumeUop u s = some r) :
    let t := r.state
    t.params = s.params ∧ t.host = s.host ∧ t.regs = s.regs ∧ t.seq = s.seq ∧ t.buf = s.buf ∧ t.phase = s.phase := by
  cases u with
  | setf f b => simp [resumeUop] at h
  | shift => simp [resumeUop] at h
  | delay n => simp [resumeUop] at h
  | pulse a l wt =>
    simp only [resumeUop, resumePulse, Option.some.injEq] at h
    subst h
    obtain ⟨-, e⟩ | ⟨-, e⟩ := takeCompletion_cases s <;> rw [e] <;> exact ⟨rfl, rfl, rfl, rfl, rfl, rfl⟩
  | reclaim =>
    simp only [resumeUop, resumeReclaim, Option.some.injEq] at h
    subst h
    obtain ⟨-, e⟩ | ⟨-, e⟩ := takeCompletion_cases s <;> rw [e] <;> exact ⟨rfl, rfl, rfl, rfl, rfl, rfl⟩
  | dmaRow =>
    simp only [resumeUop, resumeDma, Option.some.injEq] at h
    subst h
    split <;> exact ⟨rfl, rfl, rfl, rfl, rfl, rfl⟩

end Sys2Proof.Machine
end

