-- ==== Sys2Proof/Laws/Step.lean ====
section
/-! SUPPORT. What a step of SEQ, of the HOST and of the machine can do, and how runs compose. -/

namespace Sys2Proof.Machine

/-- What a step of SEQ can do when it answers a next state (R134, R135): it runs the uop at `upc`, or resumes the uop it
holds at. -/
theorem seqStep_cases {s t : State} (h : seqStep s = .next t) :
    ∃ i u, currentCommand s = some i ∧ currentUop s = some u ∧
      ((s.seq.hold = .none ∧ t = endUop i (uopsOf s.params s.seq.a0 s.seq.a1 i).length (runUop u s)) ∨
       (s.seq.hold ≠ .none ∧ ∃ r, resumeUop u (setHold .none s) = some r ∧
         t = endUop i (uopsOf s.params s.seq.a0 s.seq.a1 i).length r)) := by
  unfold seqStep at h
  cases hi : currentCommand s with
  | none => simp [hi] at h
  | some i =>
    cases hu : currentUop s with
    | none => simp [hi, hu] at h
    | some u =>
      refine ⟨i, u, rfl, rfl, ?_⟩
      simp only [hi, hu] at h
      cases hh : s.seq.hold with
      | none =>
        simp only [hh, Host.Outcome.next.injEq] at h
        exact .inl ⟨rfl, h.symm⟩
      | pulseDone | dmaDone =>
        simp only [hh] at h
        refine .inr ⟨by simp, ?_⟩
        cases hr : resumeUop u (setHold .none s) with
        | none => simp [hr] at h
        | some r =>
          simp only [hr, Host.Outcome.next.injEq] at h
          exact ⟨r, rfl, h.symm⟩

/-- What a HOST write to a register can do (R74). -/
theorem writeRegister_cases {o : Nat} {v : Word} {s t : State} (h : writeRegister o v s = .next t) :
    (∃ i p, t = issue i p s) ∨ (∃ x, t = issueIllegal x s) ∨ (∃ r, t = s.setRegs (putArg v s.regs r)) ∨
    (∃ k, t = recordFault k s) := by
  unfold writeRegister at h
  split at h
  · unfold hostCommand at h
    split at h
    · rw [exec_eq_issue, Host.Outcome.next.injEq] at h
      exact .inl ⟨_, _, h.symm⟩
    · rw [Host.Outcome.next.injEq] at h
      exact .inr (.inl ⟨_, h.symm⟩)
  · rw [Host.Outcome.next.injEq] at h
    exact .inr (.inr (.inl ⟨.arg0, h.symm⟩))
  · rw [Host.Outcome.next.injEq] at h
    exact .inr (.inr (.inl ⟨.arg1, h.symm⟩))
  · rw [Host.Outcome.next.injEq] at h
    exact .inr (.inr (.inr ⟨_, h.symm⟩))

/-- What a HOST access can do when it answers a next state: a command is issued; an illegal word is; a register is
written; a byte is; a value is seen; a model fault is recorded. -/
theorem hostAccess_cases {a : Access} {s t : State} (h : hostAccess a s = .next t) :
    (∃ i p, t = issue i p s) ∨ (∃ v, t = issueIllegal v s) ∨ (∃ v r, t = s.setRegs (putArg v s.regs r)) ∨
    (∃ i b, i < s.params.bytesPerLine ∧ t = writeBuf i b s) ∨
    (∃ off width v d, t = (s.setDraws d).setHost { s.host with seen := s.host.seen ++ [⟨off, width, v⟩] }) ∨
    (∃ k, t = recordFault k s) := by
  have read : ∀ off width, t = hostRead off width s →
      (∃ off width v d, t = (s.setDraws d).setHost { s.host with seen := s.host.seen ++ [⟨off, width, v⟩] }) ∨
      (∃ k, t = recordFault k s) := by
    intro off width e
    subst e
    have arg : ∀ a, (∃ o width v d, readArg a off s =
        (s.setDraws d).setHost { s.host with seen := s.host.seen ++ [⟨o, width, v⟩] }) := by
      intro a
      unfold readArg
      split
      · exact ⟨off, 4, argValue s.regs a, s.draws, rfl⟩
      · exact ⟨off, 4, nextWord s, _, rfl⟩
    unfold hostRead
    split
    · rename_i o _
      unfold readRegister
      split
      · exact .inl (arg .arg0)
      · exact .inl (arg .arg1)
      · exact .inl ⟨off, 4, statusWord s, s.draws, rfl⟩
      · exact .inl ⟨off, 4, cfgWord s, s.draws, rfl⟩
      · exact .inr ⟨_, rfl⟩
    · unfold readBuf
      split
      · exact .inl ⟨_, _, _, s.draws, rfl⟩
      · exact .inl ⟨_, _, _, _, rfl⟩
    · exact .inr ⟨_, rfl⟩
  cases a with
  | read off width =>
    simp only [hostAccess, Host.Outcome.next.injEq] at h
    obtain r | r := read off width h.symm
    · exact .inr (.inr (.inr (.inr (.inl r))))
    · exact .inr (.inr (.inr (.inr (.inr r))))
  | waitIdle =>
    simp only [hostAccess, Host.Outcome.next.injEq] at h
    obtain r | r := read _ _ h.symm
    · exact .inr (.inr (.inr (.inr (.inl r))))
    · exact .inr (.inr (.inr (.inr (.inr r))))
  | write off width v =>
    simp only [hostAccess, hostWrite] at h
    cases ht : target s.params off width with
    | bad k =>
      simp only [ht, Host.Outcome.next.injEq] at h
      exact .inr (.inr (.inr (.inr (.inr ⟨k, h.symm⟩))))
    | bufByte i =>
      simp only [ht, Host.Outcome.next.injEq] at h
      refine .inr (.inr (.inr (.inl ⟨i, _, ?_, h.symm⟩)))
      unfold target at ht
      split at ht
      · cases ht
      · split at ht
        · split at ht <;> cases ht
        · split at ht
          · cases ht
          · split at ht
            · rw [Target.bufByte.injEq] at ht
              omega
            · cases ht
    | register o =>
      rw [ht] at h
      obtain ⟨i, p, e⟩ | ⟨x, e⟩ | ⟨r, e⟩ | ⟨k, e⟩ := writeRegister_cases h
      · exact .inl ⟨i, p, e⟩
      · exact .inr (.inl ⟨x, e⟩)
      · exact .inr (.inr (.inl ⟨v, r, e⟩))
      · exact .inr (.inr (.inr (.inr (.inr ⟨k, e⟩))))

/-- An agent is enabled or not whatever draws the state supplies. -/
theorem enabled_setDraws (s : State) (d : Draws) (a : Agent) : enabled (s.setDraws d) a = enabled s a := by
  cases a <;> rfl

/-- What a step of the machine can do when it answers a next state (R13, R81): an enabled agent moves, on the state
itself or with a turn drawn; or a turn passes; or nothing moves. -/
theorem step_cases {s t : State} (h : step s = .next t) :
    (∃ a, enabled s a = true ∧ agentStep a s = .next t) ∨
    (∃ a, enabled s a = true ∧ agentStep a (spendTurn s) = .next t) ∨ t = spendTurn s ∨ t = s := by
  have memb : ∀ a, enabledAgents s = [a] → enabled s a = true := by
    intro a e
    have : a ∈ enabledAgents s := by simp [e]
    exact (List.mem_filter.mp this).2
  unfold step scheduledStep at h
  split at h
  · unfold noAgentStep at h
    split at h
    · cases h
    · cases h
      exact .inr (.inr (.inr rfl))
  · rename_i e
    exact .inl ⟨.host, memb _ e, h⟩
  · rename_i e
    exact .inl ⟨.seq, memb _ e, h⟩
  · unfold drawnStep at h
    split at h
    · rename_i e
      exact .inr (.inl ⟨_, e, h⟩)
    · cases h
      exact .inr (.inr (.inl rfl))

/-! ### Runs -/

theorem runs_zero (s t : State) : Runs 0 s t ↔ t = s := by
  constructor
  · intro h
    cases h
    rfl
  · rintro rfl
    rfl

/-- One more step in a run, for any machine behind the host's interface. -/
theorem core_run_succ (M : Host.Core) (n : Nat) (s t : M.State) :
    M.run (n + 1) s = .next t ↔ ∃ u, M.step s = .next u ∧ M.run n u = .next t := by
  rw [Host.Core.run]
  cases M.step s <;> simp

theorem runs_succ (n : Nat) (s t : State) : Runs (n + 1) s t ↔ ∃ u, step s = .next u ∧ Runs n u t :=
  core_run_succ Sys2Proof.core n s t

theorem runs_add {n m : Nat} {s t u : State} (h : Runs n s t) (k : Runs m t u) : Runs (n + m) s u := by
  induction n generalizing s with
  | zero =>
    rw [runs_zero] at h
    subst h
    simpa using k
  | succ n ih =>
    rw [runs_succ] at h
    obtain ⟨v, hv, hr⟩ := h
    rw [Nat.succ_add, runs_succ]
    exact ⟨v, hv, ih hr⟩

/-- A property that every step keeps holds all along a run. -/
theorem runs_induct {P : State → Prop} (keep : ∀ s t, P s → step s = .next t → P t) {n : Nat} {s t : State}
    (h : Runs n s t) (hs : P s) : P t := by
  induction n generalizing s with
  | zero =>
    rw [runs_zero] at h
    subst h
    exact hs
  | succ n ih =>
    rw [runs_succ] at h
    obtain ⟨u, hu, hr⟩ := h
    exact ih hr (keep _ _ hs hu)

/-! ### Who moves in a quiet state -/

theorem quiet_iff (s : State) : quiet s = true ↔
    s.host.program = [] ∧ s.pulse.active = false ∧ s.dma.active = false ∧ ModelFault.durRange ∉ s.faults := by
  simp [quiet, and_assoc]

/-- In a quiet state a busy SEQ moves, without a draw. -/
theorem step_quiet_seq {s : State} (q : quiet s = true) (b : s.seq.busy = true) : step s = seqStep s := by
  rw [quiet_iff] at q
  obtain ⟨hp, ha, hd, hf⟩ := q
  have hl : holdLifted s = true := by cases hh : s.seq.hold <;> simp [holdLifted, hh, ha, hd]
  have : enabledAgents s = [.seq] := by
    simp [enabledAgents, enabled, hostEnabled, hp, ha, hd, b, hl, hf]
  simp [step, scheduledStep, this]

/-- While PTX plays and SEQ waits for it, a turn drawn for PTX is its completion. -/
theorem step_ptx_turn {s : State} {rt : List Agent} (hp : s.host.program = []) (ha : s.pulse.active = true)
    (hd : s.dma.active = false) (ht : s.draws.turns = .ptx :: rt) :
    step s = .next (ptxComplete (s.setDraws { s.draws with turns := rt })) := by
  have hn := nextTurn_of_supplied ht
  have hdr : drawnStep s = .next (ptxComplete (s.setDraws { s.draws with turns := rt })) := by
    simp [drawnStep, hn.1, hn.2, enabled, ha, agentStep]
  have he : enabledAgents s = [.ptx] ∨ enabledAgents s = [.seq, .ptx] := by
    have hh : enabled s .host = false := by simp [enabled, hostEnabled, hp]
    have hx : enabled s .ptx = true := ha
    have hm : enabled s .dma = false := hd
    cases h : enabled s .seq <;> simp [enabledAgents, h, hh, hx, hm]
  obtain e | e := he <;> simp [step, scheduledStep, e, hdr]

/-- SEQ holds for nothing and the HOST and DMA are at rest: SEQ moves, at a turn of its own where PTX plays beside it. -/
theorem step_seq_turn {s : State} {n : Nat} {rt : List Agent} (hp : s.host.program = []) (hd : s.dma.active = false)
    (hf : ModelFault.durRange ∉ s.faults) (b : s.seq.busy = true) (hh : s.seq.hold = .none)
    (ht : s.draws.turns = seqTurns s.pulse.active (n + 1) ++ rt) :
    step s = seqStep (s.setDraws { s.draws with turns := seqTurns s.pulse.active n ++ rt }) := by
  cases ha : s.pulse.active with
  | false =>
    rw [ha] at ht
    have e : s.setDraws { s.draws with turns := seqTurns false n ++ rt } = s := by
      have : s.draws.turns = seqTurns false n ++ rt := ht
      rw [← this]
      rfl
    rw [e]
    exact step_quiet_seq ((quiet_iff s).mpr ⟨hp, ha, hd, hf⟩) b
  | true =>
    rw [ha] at ht
    have hn := nextTurn_of_supplied (a := .seq) (r := seqTurns true n ++ rt) ht
    have he : enabledAgents s = [.seq, .ptx] := by
      simp [enabledAgents, enabled, hostEnabled, holdLifted, hp, hd, hf, b, hh, ha]
    have hs : enabled s .seq = true := by simp [enabled, holdLifted, hf, b, hh]
    simp [step, scheduledStep, he, drawnStep, hn.1, hn.2, hs, agentStep]

end Sys2Proof.Machine
end

