-- ==== Sys2Proof/Laws/Runs.lean ====
section
/-! SUPPORT. Segments of a run in which SEQ plays uops: a stretch of SETF, SHIFT and DELAY uops, a waited PULSE uop, and
the last uop of a command. -/

namespace Sys2Proof.Machine

/-- A uop that cannot fail or hold (R133). -/
def Uop.plain : Uop → Bool
  | .setf _ _ | .shift | .delay _ => true
  | .pulse _ _ _ | .reclaim | .dmaRow => false

/-- What a plain uop does to the state; nothing for the others. -/
def Uop.effect (s : State) : Uop → State
  | .setf f b => setfUop f b s
  | .shift => shiftUop s
  | .delay n => delayUop n s
  | .pulse _ _ _ | .reclaim | .dmaRow => s

theorem runUop_plain {u : Uop} (h : u.plain = true) (s : State) : runUop u s = .done (u.effect s) := by
  cases u <;> first | rfl | simp [Uop.plain] at h

/-- A plain uop touches CFG, the trace, the lines and the panel alone. -/
theorem effect_eq (u : Uop) (s : State) : ∃ c l p tr,
    u.effect s = { s with cfg := c, lines := l, panel := p, trace := tr } := by
  cases u with
  | setf f b => exact ⟨putField f b s.cfg, s.lines, s.panel, s.trace, rfl⟩
  | shift => exact ⟨s.cfg, _, _, _, shiftUop_eq s⟩
  | delay n => exact ⟨s.cfg, s.lines, s.panel, _, delayUop_eq n s⟩
  | pulse _ _ _ | reclaim | dmaRow => exact ⟨s.cfg, s.lines, s.panel, s.trace, rfl⟩

/-- A stretch of uops likewise. -/
theorem effects_eq (us : List Uop) (s : State) : ∃ c l p tr,
    us.foldl Uop.effect s = { s with cfg := c, lines := l, panel := p, trace := tr } := by
  induction us generalizing s with
  | nil => exact ⟨s.cfg, s.lines, s.panel, s.trace, rfl⟩
  | cons u us ih =>
    obtain ⟨c, l, p, tr, e⟩ := effect_eq u s
    obtain ⟨c', l', p', tr', e'⟩ := ih (u.effect s)
    exact ⟨c', l', p', tr', by rw [List.foldl_cons, e', e]⟩

/-- A uop's effect does not look at SEQ's registers. -/
theorem effect_setSeq (u : Uop) (s : State) (q : Seq) : u.effect (s.setSeq q) = (u.effect s).setSeq q := by
  cases u <;> first | rfl | (simp only [Uop.effect, delayUop_eq]; rfl)

theorem effects_setSeq (us : List Uop) (s : State) (q : Seq) :
    us.foldl Uop.effect (s.setSeq q) = (us.foldl Uop.effect s).setSeq q := by
  induction us generalizing s with
  | nil => rfl
  | cons u us ih => rw [List.foldl_cons, List.foldl_cons, effect_setSeq, ih]

/-- Nor at the draws. -/
theorem effect_setDraws (u : Uop) (s : State) (d : Draws) : u.effect (s.setDraws d) = (u.effect s).setDraws d := by
  cases u <;> first | rfl | (simp only [Uop.effect, delayUop_eq]; rfl)

theorem effects_setDraws (us : List Uop) (s : State) (d : Draws) :
    us.foldl Uop.effect (s.setDraws d) = (us.foldl Uop.effect s).setDraws d := by
  induction us generalizing s with
  | nil => rfl
  | cons u us ih => rw [List.foldl_cons, List.foldl_cons, effect_setDraws, ih]

/-- CFG after a stretch of plain uops. -/
def cfgAfter (c : Byte) : List Uop → Byte
  | [] => c
  | .setf f b :: us => cfgAfter (putField f b c) us
  | .shift :: us | .delay _ :: us | .pulse _ _ _ :: us | .reclaim :: us | .dmaRow :: us => cfgAfter c us

/-- The events of a stretch of plain uops. -/
def eventsAfter (c : Byte) : List Uop → List Event
  | [] => []
  | .setf f b :: us => eventsAfter (putField f b c) us
  | .shift :: us => shiftEvents c ++ eventsAfter c us
  | .delay n :: us => delayEvents n ++ eventsAfter c us
  | .pulse _ _ _ :: us | .reclaim :: us | .dmaRow :: us => eventsAfter c us

/-- The configuration lines and the panel after a stretch of plain uops. -/
def shownAfter (c : Byte) (x : Lines × Panel) : List Uop → Lines × Panel
  | [] => x
  | .setf f b :: us => shownAfter (putField f b c) x us
  | .shift :: us => shownAfter c (restLines c, panelHolding c) us
  | .delay _ :: us | .pulse _ _ _ :: us | .reclaim :: us | .dmaRow :: us => shownAfter c x us

/-- A stretch of plain uops, field by field. -/
theorem effects_fields (us : List Uop) (s : State) : us.foldl Uop.effect s =
    { s with cfg := cfgAfter s.cfg us, lines := (shownAfter s.cfg (s.lines, s.panel) us).1,
             panel := (shownAfter s.cfg (s.lines, s.panel) us).2, trace := s.trace ++ eventsAfter s.cfg us } := by
  induction us generalizing s with
  | nil => simp [cfgAfter, shownAfter, eventsAfter]
  | cons u us ih =>
    rw [List.foldl_cons, ih]
    cases u with
    | setf f b => rfl
    | shift => simp [Uop.effect, shiftUop_eq, cfgAfter, shownAfter, eventsAfter]
    | delay n => simp [Uop.effect, delayUop_eq, cfgAfter, shownAfter, eventsAfter]
    | pulse _ _ _ | reclaim | dmaRow => rfl

/-- A PULSE uop within range on a consumed channel raises `Err(2)` and does nothing else (R175). -/
theorem consumed_pulse {a b : Half} {wt : Bool} {s : State} {d : Draws} (ha : a ≤ s.params.pulseMaxTicks)
    (hb : b ≤ s.params.pulseMaxTicks) (hc : s.pulse.ch = .inFlight) :
    pulseUop a b wt (s.setDraws d) = .error .channelUnavailable (s.setDraws d) := by
  have hno : ¬ (s.params.pulseMaxTicks < a ∨ s.params.pulseMaxTicks < b) := by
    simpa [not_or, BitVec.not_lt] using And.intro ha hb
  obtain ⟨x, -⟩ | ⟨-, ⟨-, e⟩ | ⟨x, -⟩ | ⟨x, -⟩ | ⟨x, -⟩⟩ := pulseUop_cases a b wt (s.setDraws d)
  · exact absurd x hno
  · exact e
  all_goals
    rw [State.setDraws_pulse, hc] at x
    cases x

/-- SEQ runs command `i` and has the uops `us` still to do, with nothing held. -/
structure Playing (i : Instr) (us : List Uop) (s : State) : Prop where
  isQuiet : quiet s = true
  busy : s.seq.busy = true
  hold : s.seq.hold = .none
  command : currentCommand s = some i
  left : (uopsOf s.params s.seq.a0 s.seq.a1 i).drop s.seq.upc = us

namespace Playing

variable {i : Instr} {u : Uop} {us : List Uop} {s : State}

theorem currentUop_eq (h : Playing i (u :: us) s) : currentUop s = some u := by
  have hl := h.left
  simp only [currentUop, currentUops, h.command]
  rw [← List.head?_drop, hl, List.head?_cons]

theorem not_last (h : Playing i (u :: us) s) :
    s.seq.upc + 1 = (uopsOf s.params s.seq.a0 s.seq.a1 i).length ↔ us = [] := by
  have hl := congrArg List.length h.left
  rw [List.length_drop, List.length_cons] at hl
  rw [← List.length_eq_zero_iff]
  omega

theorem drop_succ (h : Playing i (u :: us) s) :
    (uopsOf s.params s.seq.a0 s.seq.a1 i).drop (s.seq.upc + 1) = us := by
  rw [← List.drop_drop, h.left, List.drop_succ_cons, List.drop_zero]

/-- One step of a playing SEQ: its uop, and what follows its end. -/
theorem step_eq (h : Playing i (u :: us) s) :
    step s = .next (endUop i (uopsOf s.params s.seq.a0 s.seq.a1 i).length (runUop u s)) := by
  rw [step_quiet_seq h.isQuiet h.busy, seqStep, h.command, h.currentUop_eq]
  simp only [h.hold]

/-- After a plain uop that is not the last, SEQ plays on. -/
theorem plain_step (h : Playing i (u :: us) s) (hp : u.plain = true) (hn : us ≠ []) :
    step s = .next (advance (u.effect s)) ∧ Playing i us (advance (u.effect s)) := by
  obtain ⟨c, l, p, tr, e⟩ := effect_eq u s
  have hq : (u.effect s).seq = s.seq := by rw [e]
  constructor
  · rw [h.step_eq, runUop_plain hp, endUop, hq, if_neg (fun x => hn (h.not_last.mp x))]
  · have hs := h.drop_succ
    refine ⟨?_, ?_, ?_, ?_, ?_⟩
    · rw [e]; exact h.isQuiet
    · rw [e]; exact h.busy
    · rw [e]; exact h.hold
    · rw [e]; exact h.command
    · rw [e]; exact hs

/-- A plain uop that is the last one: the command completes in the same step. -/
theorem plain_last (h : Playing i [u] s) (hp : u.plain = true) :
    step s = .next (complete i (advance (u.effect s))) := by
  obtain ⟨c, l, p, tr, e⟩ := effect_eq u s
  have hq : (u.effect s).seq = s.seq := by rw [e]
  rw [h.step_eq, runUop_plain hp, endUop, hq, if_pos (h.not_last.mpr rfl)]

/-- A stretch of plain uops with more uops after it. -/
theorem plain_run {vs : List Uop} (h : Playing i (us ++ vs) s) (hp : us.all Uop.plain = true) (hn : vs ≠ []) :
    ∃ t, t = (us.foldl Uop.effect s).setSeq { s.seq with upc := s.seq.upc + us.length } ∧
      Runs us.length s t ∧ Playing i vs t := by
  induction us generalizing s with
  | nil => exact ⟨s, rfl, rfl, h⟩
  | cons u us ih =>
    rw [List.all_cons, Bool.and_eq_true] at hp
    rw [List.cons_append] at h
    obtain ⟨hs, hq⟩ := h.plain_step hp.1 (by simp [hn])
    obtain ⟨t, ht, hr, hx⟩ := ih hq hp.2
    obtain ⟨c, l, p, tr, e⟩ := effect_eq u s
    refine ⟨t, ?_, ?_, hx⟩
    · rw [ht, advance, effects_setSeq, List.foldl_cons]
      have hq : (u.effect s).seq = s.seq := by rw [e]
      simp only [State.setSeq_setSeq, State.setSeq_seq, hq, List.length_cons]
      congr 2
      omega
    · rw [List.length_cons, runs_succ]
      exact ⟨_, hs, hr⟩

/-- A stretch of plain uops up to the end of the command. -/
theorem plain_end (h : Playing i us s) (hp : us.all Uop.plain = true) (hn : us ≠ []) :
    Runs us.length s (complete i ((us.foldl Uop.effect s).setSeq { s.seq with upc := s.seq.upc + us.length })) := by
  obtain ⟨vs, u, rfl⟩ : ∃ vs u, us = vs ++ [u] := ⟨us.dropLast, us.getLast hn, (List.dropLast_append_getLast hn).symm⟩
  rw [List.all_append, Bool.and_eq_true, List.all_cons, List.all_nil, Bool.and_true] at hp
  obtain ⟨t, ht, hr, hx⟩ := h.plain_run hp.1 (by simp)
  have hl := hx.plain_last hp.2
  rw [List.length_append, List.length_singleton]
  refine runs_add hr ((runs_succ _ _ _).mpr ⟨_, hl, ?_⟩)
  rw [runs_zero, ht, effect_setSeq]
  obtain ⟨c, l, p, tr, e⟩ := effect_eq u (vs.foldl Uop.effect s)
  obtain ⟨c', l', p', tr', e'⟩ := effects_eq vs s
  rw [List.foldl_append, List.foldl_cons, List.foldl_nil]
  rfl

/-- A PULSE uop within range on a channel that is not consumed, every answer OK: the waveform is submitted (R176, R177). -/
theorem submission {a b : Half} (wt : Bool) {ra : List Answer} (ha : a ≤ s.params.pulseMaxTicks)
    (hb : b ≤ s.params.pulseMaxTicks) (hc : s.pulse.ch ≠ .inFlight)
    (hd : s.draws.answers = List.replicate (answersNeeded s.pulse.ch 1) .ok ++ ra) :
    ∃ t, t = { s with pulse := playing a b, draws := { s.draws with answers := ra },
                      trace := s.trace ++ [pulseTxOf a b] } ∧
      runUop (.pulse a b wt) s = if wt then .held .pulseDone t else .done t := by
  refine ⟨_, rfl, ?_⟩
  have hno : ¬ (s.params.pulseMaxTicks < a ∨ s.params.pulseMaxTicks < b) := by
    simpa [not_or, BitVec.not_lt] using And.intro ha hb
  obtain ⟨x, -⟩ | ⟨-, ⟨x, -⟩ | ⟨hu, hf, -⟩ | ⟨hu, hk, e⟩ | ⟨hi, e⟩⟩ := pulseUop_cases a b wt s
  · exact absurd x hno
  · exact absurd x hc
  · rw [hu] at hd
    have := (nextAnswer_of_supplied hd).1
    rw [hf] at this
    cases this
  · rw [hu] at hd
    have h1 := nextAnswer_of_supplied hd
    simp only [runUop, e, h1.2]
    rfl
  · rw [hi] at hd
    have h1 := nextAnswer_of_supplied hd
    obtain ⟨y, -⟩ | ⟨-, rfl, e'⟩ | ⟨-, rfl, e'⟩ := submitPulse_cases a b wt s
    · rw [h1.1] at y
      cases y
    all_goals
      simp only [runUop, e, e', h1.2]
      rfl

/-- A waited PULSE uop from submission to its completion answer, every answer OK, PTX's turn when SEQ waits (R178): three
steps, after which the command completes or SEQ plays on. -/
theorem waited_run {a b : Half} {ra : List Answer} {rt : List Agent} (h : Playing i (.pulse a b true :: us) s)
    (ha : a ≤ s.params.pulseMaxTicks) (hb : b ≤ s.params.pulseMaxTicks) (hc : s.pulse.ch ≠ .inFlight)
    (hd : s.draws.answers = List.replicate (answersNeeded s.pulse.ch 2) .ok ++ ra)
    (ht : s.draws.turns = .ptx :: rt) :
    ∃ t, t = { s with seq := { s.seq with upc := s.seq.upc + 1 }, pulse := idleChannel,
                      draws := { s.draws with answers := ra, turns := rt },
                      trace := s.trace ++ waitedPulse a b } ∧
      Runs 3 s (if us = [] then complete i t else t) ∧ (us ≠ [] → Playing i us t) := by
  have hd' : s.draws.answers = List.replicate (answersNeeded s.pulse.ch 1) .ok ++ (.ok :: ra) := by
    rw [hd]
    cases s.pulse.ch <;> rfl
  obtain ⟨t1, e1, hr⟩ := submission (s := s) true ha hb hc hd'
  have s1 := h.step_eq
  rw [hr, if_pos rfl, endUop] at s1
  have hq := (quiet_iff s).mp h.isQuiet
  have s2 : step (setHold .pulseDone t1) = .next (ptxComplete ((setHold .pulseDone t1).setDraws
      { (setHold .pulseDone t1).draws with turns := rt })) :=
    step_ptx_turn (by rw [e1]; exact hq.1) (by rw [e1]; rfl) (by rw [e1]; exact hq.2.2.1) (by rw [e1]; exact ht)
  generalize e2 : ptxComplete ((setHold .pulseDone t1).setDraws
      { (setHold .pulseDone t1).draws with turns := rt }) = t2 at s2
  have q2 : quiet t2 = true := by
    rw [quiet_iff, ← e2, e1]
    exact ⟨hq.1, rfl, hq.2.2⟩
  have c2 : currentCommand t2 = some i := by
    rw [← e2, e1]
    exact h.command
  have u2 : currentUop t2 = some (.pulse a b true) := by
    rw [← e2, e1]
    exact h.currentUop_eq
  have a2 := nextAnswer_of_supplied (s := setHold .none t2) (a := .ok) (r := ra) (by rw [← e2, e1]; rfl)
  have s3 : step t2 = .next (endUop i (uopsOf t2.params t2.seq.a0 t2.seq.a1 i).length
      (takeCompletion (setHold .none t2))) := by
    rw [step_quiet_seq q2 (by rw [← e2, e1]; exact h.busy), seqStep, c2, u2]
    have : t2.seq.hold = .pulseDone := by rw [← e2, e1]; rfl
    simp only [this]
    rfl
  obtain ⟨-, e3⟩ | ⟨x, -⟩ := takeCompletion_cases (setHold .none t2)
  · refine ⟨_, rfl, ?_, ?_⟩
    · refine (runs_succ _ _ _).mpr ⟨_, s1, (runs_succ _ _ _).mpr ⟨_, s2, (runs_succ _ _ _).mpr ⟨_, s3, ?_⟩⟩⟩
      rw [runs_zero, e3, endUop, a2.2]
      have hl : (((setHold .none t2).setDraws { (setHold .none t2).draws with answers := ra }).setPulse
          { (setHold .none t2).pulse with ch := .idle }).seq.upc + 1 =
          (uopsOf t2.params t2.seq.a0 t2.seq.a1 i).length ↔ us = [] := by
        rw [← e2, e1]
        exact h.not_last
      have hh := h.hold
      have ef : advance (((setHold .none t2).setDraws { (setHold .none t2).draws with answers := ra }).setPulse
          { (setHold .none t2).pulse with ch := .idle }) =
          { s with seq := { s.seq with upc := s.seq.upc + 1 }, pulse := idleChannel,
                   draws := { s.draws with answers := ra, turns := rt },
                   trace := s.trace ++ waitedPulse a b } := by
        rw [← e2, e1]
        apply State.ext <;> simp [advance, setHold, ptxComplete, emit, waitedPulse, idleChannel, playing, hh]
      by_cases hu : us = []
      · rw [if_pos hu, if_pos (hl.mpr hu), ef]
      · rw [if_neg hu, if_neg (fun x => hu (hl.mp x)), ef]
    · intro _
      refine ⟨?_, h.busy, h.hold, h.command, h.drop_succ⟩
      rw [quiet_iff]
      exact ⟨hq.1, rfl, hq.2.2⟩
  · rw [a2.1] at x
    cases x

/-- A PULSE uop within range on a consumed channel: the command ends with `Err(2)` at once (R175). -/
theorem consumed_step {a b : Half} {wt : Bool} (h : Playing i (.pulse a b wt :: us) s)
    (ha : a ≤ s.params.pulseMaxTicks) (hb : b ≤ s.params.pulseMaxTicks) (hc : s.pulse.ch = .inFlight) :
    step s = .next (raiseErr .channelUnavailable s) := by
  have e := consumed_pulse (wt := wt) (d := s.draws) ha hb hc
  rw [h.step_eq, runUop, show pulseUop a b wt s = _ from e, endUop]
  rfl

/-! The same while PTX may be playing beside SEQ: `Playing` of the state with PTX at rest, and SEQ's turns supplied. -/

variable {n : Nat} {rt : List Agent}

/-- One step of SEQ, PTX playing or not. -/
theorem turn_step (h : Playing i (u :: us) (s.setPulse { s.pulse with active := false }))
    (ht : s.draws.turns = seqTurns s.pulse.active (n + 1) ++ rt) :
    step s = .next (endUop i (uopsOf s.params s.seq.a0 s.seq.a1 i).length
      (runUop u (s.setDraws { s.draws with turns := seqTurns s.pulse.active n ++ rt }))) := by
  have q := (quiet_iff _).mp h.isQuiet
  have hp : s.host.program = [] := q.1
  have hd : s.dma.active = false := q.2.2.1
  have hf : ModelFault.durRange ∉ s.faults := q.2.2.2
  have hh : s.seq.hold = .none := h.hold
  have hc : currentCommand (s.setDraws { s.draws with turns := seqTurns s.pulse.active n ++ rt }) = some i := h.command
  have hu : currentUop (s.setDraws { s.draws with turns := seqTurns s.pulse.active n ++ rt }) = some u :=
    h.currentUop_eq
  rw [step_seq_turn hp hd hf h.busy hh ht, seqStep, hc, hu]
  simp only [State.setDraws_seq, State.setDraws_params, hh]

/-- A stretch of plain uops with more uops after it, PTX playing or not. -/
theorem turn_run {vs : List Uop} (h : Playing i (us ++ vs) (s.setPulse { s.pulse with active := false }))
    (hp : us.all Uop.plain = true) (hn : vs ≠ [])
    (ht : s.draws.turns = seqTurns s.pulse.active (us.length + n) ++ rt) :
    ∃ t, t = ((us.foldl Uop.effect s).setSeq { s.seq with upc := s.seq.upc + us.length }).setDraws
        { s.draws with turns := seqTurns s.pulse.active n ++ rt } ∧
      Runs us.length s t ∧ Playing i vs (t.setPulse { t.pulse with active := false }) := by
  induction us generalizing s with
  | nil =>
    refine ⟨s, ?_, rfl, h⟩
    have e : s.draws.turns = seqTurns s.pulse.active n ++ rt := by
      rw [ht, List.length_nil, Nat.zero_add]
    rw [← e]
    rfl
  | cons u us ih =>
    rw [List.all_cons, Bool.and_eq_true] at hp
    rw [List.cons_append] at h
    have hlen : (u :: us).length + n = us.length + n + 1 := by
      rw [List.length_cons]
      omega
    rw [hlen] at ht
    have st := h.turn_step ht
    have hs := h.drop_succ
    obtain ⟨c, l, p, tr, e⟩ := effect_eq u s
    have hq : (u.effect s).seq = s.seq := by rw [e]
    have hl : ¬ s.seq.upc + 1 = (uopsOf s.params s.seq.a0 s.seq.a1 i).length :=
      fun x => absurd (h.not_last.mp x) (by simp [hn])
    rw [runUop_plain hp.1, endUop, effect_setDraws, State.setDraws_seq, hq, if_neg hl] at st
    obtain ⟨t, et, hr, hx⟩ := ih (s := advance ((u.effect s).setDraws
        { s.draws with turns := seqTurns s.pulse.active (us.length + n) ++ rt }))
      ⟨by rw [e]; exact h.isQuiet, by rw [e]; exact h.busy, by rw [e]; exact h.hold, by rw [e]; exact h.command,
        by rw [e]; exact hs⟩ hp.2 (by rw [e]; rfl)
    refine ⟨t, ?_, (runs_succ _ _ _).mpr ⟨_, st, hr⟩, hx⟩
    have hup : s.seq.upc + 1 + us.length = s.seq.upc + (u :: us).length := by
      rw [List.length_cons]
      omega
    have hpl : (u.effect s).pulse = s.pulse := by rw [e]
    rw [et, advance, effects_setSeq, effects_setDraws, List.foldl_cons]
    apply State.ext <;> simp [hq, hpl, hup]

/-- A PULSE uop within range on a consumed channel, PTX playing or not. -/
theorem turn_consumed {a b : Half} {wt : Bool}
    (h : Playing i (.pulse a b wt :: us) (s.setPulse { s.pulse with active := false }))
    (ha : a ≤ s.params.pulseMaxTicks) (hb : b ≤ s.params.pulseMaxTicks) (hc : s.pulse.ch = .inFlight)
    (ht : s.draws.turns = seqTurns s.pulse.active 1 ++ rt) :
    step s = .next (raiseErr .channelUnavailable (s.setDraws { s.draws with turns := rt })) := by
  have st := h.turn_step (n := 0) ht
  have e : seqTurns s.pulse.active 0 ++ rt = rt := by
    cases s.pulse.active <;> rfl
  rw [e, runUop, consumed_pulse ha hb hc, endUop] at st
  exact st

end Playing

/-! ### The start of a command -/

/-- The state in which command `i` has begun. -/
def begun (i : Instr) (s : State) : State := beginCommand i (latchCommand (opOf i) (waitOf i) s)

/-- A present command with its operands written and in range begins (R131). -/
theorem exec_begun {i : Instr} {s : State} (b : s.seq.busy = false) (hi : i ≠ .reclaim ∨ s.params.reclaimPresent = true)
    (hu : someUnwritten (argReads i) s.regs = false) (ho : someOutOfRange (argReads i) s.regs = false) :
    exec i s = .next (begun i s) := by
  have hp : (if i = .reclaim then s.params.reclaimPresent else true) = true := by
    split
    · exact hi.resolve_left (fun x => x ‹_›)
    · rfl
  rw [exec_eq_issue, hp]
  have hr : (latchCommand (opOf i) (waitOf i) s).regs = s.regs := rfl
  simp [issue, b, hr, hu, ho, begun]

/-- A begun command that reads no operand, field by field. -/
theorem begun_eq {i : Instr} (s : State) (h : argReads i = []) : begun i s =
    { s with
      seq := { s.seq with busy := true, op := opOf i, w := waitOf i, upc := 0, hold := .none, err := .none }
      phase := phaseIssue i s.phase
      trace := s.trace ++ [.cmd (opOf i) (waitOf i)] } := by
  simp [begun, beginCommand, latchCommand, emit, h, latchOperands]
  rfl

/-- The latched opcode and wait flag name the command (R101, R102). -/
theorem instrOf_opOf (i : Instr) : instrOf (opOf i) (waitOf i) = .ok i := by
  cases i <;> rfl

/-- In a quiet state a begun command plays its whole uop list. -/
theorem begun_playing {i : Instr} {s : State} (q : quiet s = true) :
    Playing i (uopsOf s.params (begun i s).seq.a0 (begun i s).seq.a1 i) (begun i s) := by
  have hs : ∀ r x, (latchOperands (argReads i) r x).op = x.op ∧ (latchOperands (argReads i) r x).w = x.w := by
    intro r x
    cases i <;> exact ⟨rfl, rfl⟩
  refine ⟨q, rfl, rfl, ?_, rfl⟩
  simp [currentCommand, begun, beginCommand, latchCommand, hs, instrOf_opOf]

end Sys2Proof.Machine
end

