-- ==== Sys2Proof/Tests/Slice0.lean ====
section
/-! SUPPORT. The model's own tests. Expected values are the spec's worked examples and tables (each named at its test), on
the reference parameters REF of spec/95_test_vectors.md §1. The theorems `witness_…` give, for each obligation with
hypotheses, a concrete state that meets them. -/

namespace Sys2Proof.Tests

open Sys2Proof Sys2Proof.Machine

/-! ### Small states -/

/-- The reset state with REF. -/
def ref : State := State.resetWith Params.ref

/-- REF without RECLAIM. -/
def refNoReclaim : State := State.resetWith { Params.ref with reclaimPresent := false }

/-- REF with SKIP's pulse not waited. -/
def refSkipNoWait : State := State.resetWith { Params.ref with skipWait := false }

/-- Supplied peripheral answers. -/
def answering (xs : List Answer) (s : State) : State := s.setDraws { s.draws with answers := xs }

/-- Supplied turns. -/
def turning (xs : List Agent) (s : State) : State := s.setDraws { s.draws with turns := xs }

/-- Supplied transfer outcomes, channel owners, bytes and words. -/
def busing (xs : List BusResult) (s : State) : State := s.setDraws { s.draws with busResults := xs }
def owning (xs : List Owner) (s : State) : State := s.setDraws { s.draws with owners := xs }
def byting (xs : List Byte) (s : State) : State := s.setDraws { s.draws with bytes := xs }
def wording (xs : List Word) (s : State) : State := s.setDraws { s.draws with words := xs }

/-- Both operand registers written. -/
def args (v0 v1 : Word) (s : State) : State := s.setRegs ⟨v0, v1, true, true⟩

/-- The channel as given. -/
def chan (u : PulseUnit) (s : State) : State := s.setPulse u

/-- The HOST with a program. -/
def prog (xs : List Access) (s : State) : State := s.setHost { s.host with program := xs }

/-- SEQ at uop `upc` of command `i`, holding as given, with operands 10 and 5. -/
def atUop (i : Instr) (upc : Nat) (h : Hold) (s : State) : State :=
  s.setSeq { busy := true, op := opOf i, w := waitOf i, a0 := 10, a1 := 5, upc := upc, hold := h, err := .none }

/-- The state an outcome holds, if it is a next one. -/
def nextOf (r : Result) : Option State :=
  match r with
  | .next s => some s
  | .fault _ | .refused _ => none

/-- A field of the state after an outcome. -/
def after {α : Type} (f : State → α) (r : Result) : Option α := (nextOf r).map f

/-! ### Well-formedness: a term that each check refuses (R8, R104, R108) -/

theorem test_wf_ref : Params.ref.wf = true := by decide
theorem test_wf_line_empty : { Params.ref with bytesPerLine := 0 }.lineFits = false := by decide
theorem test_wf_line_long : { Params.ref with bytesPerLine := 0xFF01 }.lineFits = false := by decide
theorem test_wf_line_longest : { Params.ref with bytesPerLine := 0xFF00 }.lineFits = true := by decide
theorem test_wf_tick_zero : { Params.ref with pulseTick := 0 }.unitsPositive = false := by decide
theorem test_wf_cycle_zero : { Params.ref with cycle := 0 }.unitsPositive = false := by decide
theorem test_wf_settle : { Params.ref with dPon2 := 100 }.settleLonger = false := by decide
theorem test_wf_ticks : { Params.ref with rowLow := 0x8000 }.ticksFit = false := by decide
theorem test_wf_any_check : { Params.ref with skipL := 0xFFFF }.wf = false := by decide
theorem test_wf_reclaim_absent : Instr.wf { Params.ref with reclaimPresent := false } .reclaim = false := by decide
theorem test_wf_operand : operandWf 0x00010000 = false ∧ operandWf 0x0000FFFF = true := by decide
theorem test_wf_buffer : bufferCopyWf Params.ref [1, 2, 3, 4, 5] = false := by decide
theorem test_wf_do : doWf (.pulse true) = false ∧ doWf .outputRow = false := by decide
theorem test_asm_refused : Asm.expand Params.ref (.setBuffer [1, 2, 3, 4, 5]) = none := by decide

/-! ### Decoding: the words of R102, written out -/

theorem test_decode_power_on : decodeWord 0x00000001 = .ok .powerOn := by decide
theorem test_decode_power_off : decodeWord 0x00000002 = .ok .powerOff := by decide
theorem test_decode_frame_start : decodeWord 0x00000003 = .ok .frameStart := by decide
theorem test_decode_frame_end : decodeWord 0x00000004 = .ok .frameEnd := by decide
theorem test_decode_output_row : decodeWord 0x00000005 = .ok .outputRow := by decide
theorem test_decode_skip : decodeWord 0x00000006 = .ok .skip := by decide
theorem test_decode_pulse_nowait : decodeWord 0x00000007 = .ok (.pulse false) := by decide
theorem test_decode_pulse_wait : decodeWord 0x00000107 = .ok (.pulse true) := by decide
theorem test_decode_reclaim : decodeWord 0x00000008 = .ok .reclaim := by decide
theorem test_decode_reserved_op : decodeWord 0x00000009 = .error .reservedOpcode := by decide
theorem test_decode_reserved_low : decodeWord 0x00000010 = .error .reservedBits := by decide
theorem test_decode_reserved_high : decodeWord 0x00000201 = .error .reservedBits := by decide
theorem test_decode_wait_not_pulse : decodeWord 0x00000101 = .error .waitNotAllowed := by decide
theorem test_decode_bytes : decodeBytes [0x07, 0x01, 0x00, 0x00, 0xAA] = .ok (.pulse true, [0xAA]) := by decide
/-- RECLAIM's word, R102, in the byte order of R78. -/
theorem witness_EncodeDecodeRoundTrip : decodeBytes [0x08, 0x00, 0x00, 0x00, 0xFF] = .ok (.reclaim, [0xFF]) := by decide
theorem test_decode_short : decodeBytes [0x07, 0x01, 0x00] = .error .tooShort := by decide
theorem test_decode_table : decodeTableWord 32 0x107 = some (.pulse true) ∧ decodeTableWord 32 9 = none := by decide

/-! ### Commands: one issue, one uop -/

/-- R131, R245: POWER_ON is issued from reset. -/
theorem test_power_on_issue :
    after (fun t => (t.seq.busy, t.seq.op, t.phase, t.trace)) (exec .powerOn ref) =
      some (true, 0x1, .poweringUp, [.cmd 1 false]) := by decide

/-- R230's example: the first SETF from `0x12` gives `0x32`. -/
theorem test_power_on_first : after (·.cfg) (seqStep (atUop .powerOn 0 .none ref)) = some 0x32 := by decide

/-- R245: POWER_OFF moves the phase. -/
theorem test_power_off_issue : after (·.phase) (exec .powerOff ref) = some .poweringDown := by decide

/-- R232: the last uop of POWER_OFF is a DELAY of 0 in REF: `Done(0)` alone. -/
theorem test_power_off_end :
    after (fun t => (t.seq.busy, t.phase, t.trace)) (seqStep (atUop .powerOff 11 .none ref)) =
      some (false, .off, [.done .none]) := by decide

/-- R234: FRAME_START's first uop sets `mode`: `0x3C` gives `0x7C`. -/
theorem test_frame_start_first :
    after (·.cfg) (seqStep (atUop .frameStart 0 .none (ref.setCfg 0x3C))) = some 0x7C := by decide

/-- R235: with the channel consumed its first pulse ends it with `Err(2)`. -/
theorem test_frame_start_consumed :
    after (fun t => (t.seq.busy, t.seq.err, t.phase)) (seqStep (atUop .frameStart 2 .none (chan spentChannel ref))) =
      some (false, .channelUnavailable, .unknown) := by decide

/-- R236's example: from `0xFC` the first SETF gives `0x7C`. -/
theorem test_frame_end_first :
    after (·.cfg) (seqStep (atUop .frameEnd 0 .none (ref.setCfg 0xFC))) = some 0x7C := by decide

/-- R205, R131: OUTPUT_ROW latches ARG0's low half. -/
theorem test_output_row_issue :
    after (fun t => (t.seq.busy, t.seq.a0)) (exec .outputRow (args 100 0xFFFF0000 ref)) = some (true, 100) := by decide

/-- R200's example: `DmaTx(0xFF, 0xFF, 0x00, 0x12)`, then a hold. -/
theorem test_output_row_transfer :
    after (fun t => (t.seq.hold, t.trace))
      (seqStep (atUop .outputRow 5 .none (ref.setBuf [(0, 0xFF), (1, 0xFF), (2, 0x00), (3, 0x12)]))) =
      some (.dmaDone, [.dmaTx [0xFF, 0xFF, 0x00, 0x12]]) := by decide

/-- R210: SKIP submits its pulse, `(15, 1)` in REF. -/
theorem test_skip_pulse :
    after (·.trace) (seqStep (atUop .skip 0 .none (answering [.ok] (chan idleChannel ref)))) =
      some [.pulseTx 15 1] := by decide

/-- R185's example: `PULSE` nowait with 10 and 5. -/
theorem test_pulse_nowait :
    after (fun t => (t.pulse.ch, t.trace)) (seqStep (atUop (.pulse false) 0 .none (answering [.ok] (chan idleChannel ref)))) =
      some (.inFlight, [.pulseTx 10 5, .done .none]) := by decide

/-- R182's example: `PULSE` wait holds. -/
theorem test_pulse_wait :
    after (fun t => (t.seq.hold, t.trace)) (seqStep (atUop (.pulse true) 0 .none (answering [.ok] (chan idleChannel ref)))) =
      some (.pulseDone, [.pulseTx 10 5]) := by decide

/-- R187's example: RECLAIM on an Idle channel changes nothing. -/
theorem test_reclaim_idle :
    after (fun t => (t.pulse, t.trace)) (seqStep (atUop .reclaim 0 .none (chan idleChannel ref))) =
      some (idleChannel, [.done .none]) := by decide

/-- R105: RECLAIM without `RECLAIM_PRESENT` is illegal. -/
theorem test_reclaim_absent :
    after (fun t => (t.seq.busy, t.seq.err)) (exec .reclaim refNoReclaim) = some (false, .illegalCommand) := by decide

/-! ### Uops, registers, the window -/

/-- R150's example. -/
theorem test_setf : (setfUop .scanDirection true ref).cfg = 0x32 := by decide

/-- R151's example: the levels of `0x12`, in order. -/
theorem test_shift_order : shiftOrder 0x12 = [false, false, false, true, false, false, true, false] := by decide

/-- R153: a SHIFT of the reset value reaches the panel. -/
theorem test_shift_panel : (shiftUop ref).panel.latched = PanelByte.ofByte 0x12 := by decide

/-- R137's example. -/
theorem test_delay : (delayUop 500 ref).trace = [.wait 500] ∧ (delayUop 0 ref).trace = [] := by decide

/-- R172's table. -/
theorem test_waveform : waveform 10 5 = (10, 5) ∧ waveform 10 0 = (10, 0) ∧ waveform 0 5 = (5, 0) ∧
    waveform 0 0 = (0, 0) := by decide

/-- R22: busy `0x01`; at reset 0; Err(4) `0x8`, InFlight `0x20` and PTX_ACTIVE `0x40` together `0x68`. -/
theorem test_status : statusWord (atUop .powerOn 0 .none ref) = 0x01 ∧ statusWord ref = 0 ∧
    statusWord (chan (playing 1 1) (ref.setSeq { ref.seq with err := .illegalCommand })) = 0x68 := by decide

/-- R215's example: `SET_BUFFER [0xAA, 0xBB]` on `[1, 2, 3, 4]`. -/
theorem test_set_buffer :
    Memory.write (Memory.write [(0, 1), (1, 2), (2, 3), (3, 4)] 0 0xAA) 1 0xBB =
      [(0, 0xAA), (1, 0xBB), (2, 3), (3, 4)] := by decide

/-- R76: a byte write while a command runs. -/
theorem test_busy_write :
    after (fun t => (t.buf, t.faults)) (hostWrite 0x100 1 7 (atUop .powerOn 0 .none ref)) = some ([], [.busyWrite]) := by
  decide

/-- R314: after an error the conforming commands are POWER_OFF, PULSE and RECLAIM. -/
theorem test_conforming_after_error :
    [Instr.powerOn, .powerOff, .frameStart, .frameEnd, .outputRow, .skip, .pulse true, .reclaim].map
      (conforming · .unknown) = [false, true, false, false, false, false, true, true] := by decide

/-- R301: after reset nothing moves. -/
theorem test_reset_idle : step State.reset = .next State.reset := by rfl

/-- A command word placed at reset runs in the next step. -/
theorem test_reset_runs : step (State.reset.withFetchWord 32 0x1) = exec .powerOn State.reset := by rfl

/-! ### Witnesses: for each obligation with hypotheses, states and operands that meet them -/

theorem witness_StepRunsTheDecodedCommand :
    let s := prog [issueWord .powerOn, .waitIdle] ref
    let u := turning [.host] (prog [issueWord (.pulse true)] (chan (playing 1 1) ref))
    (s.host.program = .write 0x000 4 0x1 :: [.waitIdle] ∧ decodeWord 0x1 = .ok .powerOn ∧ enabledAgents s = [.host]) ∧
    (u.host.program = .write 0x000 4 0x107 :: [] ∧ decodeWord 0x107 = .ok (.pulse true) ∧
      enabledAgents u ≠ [.host] ∧ nextTurn u = .host) := by decide

theorem witness_PlacedWordRunsNext : decodeWord (BitVec.ofNat 32 0x107) = .ok (.pulse true) := by decide

theorem witness_CommandWriteWhileBusyFaults :
    (atUop .powerOn 0 .none ref).seq.busy = true ∧ ref.seq.busy = false ∧ decodeWord 0x8 = .ok .reclaim ∧
      decodeWord 0x9 = .error .reservedOpcode := by decide

theorem witness_IllegalCommandOnlyMarks :
    let s := args 0x00010000 0x80000000 refNoReclaim
    s.seq.busy = false ∧ decodeWord 0xFFFFFFFF = .error .reservedBits ∧ s.params.reclaimPresent = false ∧
    s.regs.argw0 = true ∧ s.regs.argw1 = true ∧ s.regs.arg0.extractLsb' 16 16 ≠ 0 ∧
    s.regs.arg1.extractLsb' 16 16 ≠ 0 := by decide

theorem witness_OperandlessCommandsIssue : ref.seq.busy = false ∧ ref.params.reclaimPresent = true := by decide

theorem witness_OperandCommandsIssue :
    let s := args 0x0000FFFF 0 ref
    (s.seq.busy = false ∧ s.regs.argw0 = true ∧ s.regs.argw1 = true ∧ s.regs.arg0.extractLsb' 16 16 = 0 ∧
      s.regs.arg1.extractLsb' 16 16 = 0) ∧
    (ref.seq.busy = false ∧ ref.regs.argw0 = false ∧ ref.regs.argw1 = false) := by decide

theorem witness_IssueLeavesTheRest : ∃ t, exec .frameEnd ref = .next t := ⟨_, rfl⟩

theorem witness_PowerOnRuns : quiet ref = true ∧ ref.seq.busy = false := by decide

theorem witness_PowerOffRuns : quiet (ref.setCfg 0x3C) = true ∧ (ref.setCfg 0x3C).seq.busy = false := by decide

theorem witness_FrameStartRuns :
    let s := turning (List.replicate 7 .ptx) (answering (List.replicate 15 .ok) ref)
    quiet s = true ∧ s.seq.busy = false ∧ s.pulse.ch ≠ .inFlight ∧ s.params.ticksFit = true ∧
    s.draws.answers = List.replicate (answersNeeded s.pulse.ch 14) .ok ++ [] ∧
    s.draws.turns = List.replicate 7 .ptx ++ [] := by decide

theorem witness_FrameEndRuns :
    let s := turning [.ptx, .ptx] (answering [.ok, .ok, .ok, .ok] (chan idleChannel ref))
    quiet s = true ∧ s.seq.busy = false ∧ s.pulse.ch ≠ .inFlight ∧ s.params.ticksFit = true ∧
    s.draws.answers = List.replicate (answersNeeded s.pulse.ch 4) .ok ++ [] ∧
    s.draws.turns = [.ptx, .ptx] ++ [] := by decide

theorem witness_OutputRowRunsPulseLast :
    let s := turning [.seq, .dma, .seq] (busing [.err] (answering [.ok, .ok] (args 0x7FFF 0 ref)))
    quiet s = true ∧ s.seq.busy = false ∧ s.pulse.ch ≠ .inFlight ∧ s.regs.argw0 = true ∧
    s.regs.arg0.extractLsb' 16 16 = 0 ∧ s.regs.arg0.extractLsb' 0 16 ≤ s.params.pulseMaxTicks ∧
    s.params.rowLow ≤ s.params.pulseMaxTicks ∧
    s.draws.answers = List.replicate (answersNeeded s.pulse.ch 1) .ok ++ [] ∧ s.draws.busResults = [.err] ∧
    s.draws.turns = [.seq, .dma, .seq] ++ [] := by decide

theorem witness_OutputRowRunsPulseFirst :
    let s := turning [.ptx, .dma] (busing [.ok] (answering [.ok] (args 0 0 (chan idleChannel ref))))
    quiet s = true ∧ s.seq.busy = false ∧ s.pulse.ch ≠ .inFlight ∧ s.regs.argw0 = true ∧
    s.regs.arg0.extractLsb' 16 16 = 0 ∧ s.regs.arg0.extractLsb' 0 16 ≤ s.params.pulseMaxTicks ∧
    s.params.rowLow ≤ s.params.pulseMaxTicks ∧
    s.draws.answers = List.replicate (answersNeeded s.pulse.ch 1) .ok ++ [] ∧ s.draws.busResults = [.ok] ∧
    s.draws.turns = [.ptx, .dma] ++ [] := by decide

theorem witness_SkipRuns :
    let s := turning [.ptx] (answering [.ok, .ok, .ok] ref)
    let u := answering [.ok] (chan idleChannel refSkipNoWait)
    (quiet s = true ∧ s.seq.busy = false ∧ s.pulse.ch ≠ .inFlight ∧ s.params.ticksFit = true ∧
      s.params.skipWait = true ∧ s.draws.answers = List.replicate (answersNeeded s.pulse.ch 2) .ok ++ [] ∧
      s.draws.turns = [.ptx]) ∧
    (quiet u = true ∧ u.seq.busy = false ∧ u.pulse.ch ≠ .inFlight ∧ u.params.ticksFit = true ∧
      u.params.skipWait = false ∧ u.draws.answers = List.replicate (answersNeeded u.pulse.ch 1) .ok ++ []) := by decide

theorem witness_PulseRuns :
    let s := turning [.ptx] (answering [.ok, .ok, .ok] (args 0x7FFF 0 ref))
    let u := answering [.ok] (args 0 0x7FFF (chan idleChannel ref))
    (quiet s = true ∧ s.seq.busy = false ∧ s.pulse.ch ≠ .inFlight ∧ s.regs.argw0 = true ∧ s.regs.argw1 = true ∧
      s.regs.arg0.extractLsb' 16 16 = 0 ∧ s.regs.arg1.extractLsb' 16 16 = 0 ∧
      s.regs.arg0.extractLsb' 0 16 ≤ s.params.pulseMaxTicks ∧ s.regs.arg1.extractLsb' 0 16 ≤ s.params.pulseMaxTicks ∧
      s.draws.answers = List.replicate (answersNeeded s.pulse.ch 2) .ok ++ [] ∧ s.draws.turns = [.ptx]) ∧
    (quiet u = true ∧ u.seq.busy = false ∧ u.pulse.ch ≠ .inFlight ∧ u.regs.argw0 = true ∧ u.regs.argw1 = true ∧
      u.regs.arg0.extractLsb' 16 16 = 0 ∧ u.regs.arg1.extractLsb' 16 16 = 0 ∧
      u.regs.arg0.extractLsb' 0 16 ≤ u.params.pulseMaxTicks ∧ u.regs.arg1.extractLsb' 0 16 ≤ u.params.pulseMaxTicks ∧
      u.draws.answers = List.replicate (answersNeeded u.pulse.ch 1) .ok ++ []) := by decide

theorem witness_ReclaimRuns :
    let u := answering [.ok] (chan spentChannel ref)
    let v := turning [.seq, .ptx] (answering [.ok] (chan (playing 10 5) ref))
    (ref.seq.busy = false ∧ ref.params.reclaimPresent = true ∧ quiet ref = true ∧ ref.pulse.ch ≠ .inFlight) ∧
    (u.seq.busy = false ∧ u.params.reclaimPresent = true ∧ quiet u = true ∧ u.pulse.ch = .inFlight ∧
      u.draws.answers = [.ok]) ∧
    (v.seq.busy = false ∧ v.params.reclaimPresent = true ∧
      quiet (v.setPulse { v.pulse with active := false }) = true ∧ v.pulse.active = true ∧ v.pulse.ch = .inFlight ∧
      v.draws.answers = [.ok] ∧ v.draws.turns = [.seq, .ptx] ++ []) := by decide

theorem witness_ConsumedChannelAbortsCommands :
    let s := args 10 5 (chan spentChannel ref)
    let u := fun n => turning (List.replicate n .seq) (args 0x7FFF 0x7FFF (chan (playing 10 5) ref))
    (s.seq.busy = false ∧ s.pulse.ch = .inFlight ∧ s.params.ticksFit = true ∧ s.pulse.active = false ∧
      quiet (s.setPulse { s.pulse with active := false }) = true ∧ s.draws.turns = seqTurns s.pulse.active 5 ++ [] ∧
      s.regs.argw0 = true ∧ s.regs.argw1 = true ∧ s.regs.arg0.extractLsb' 16 16 = 0 ∧
      s.regs.arg1.extractLsb' 16 16 = 0 ∧ s.regs.arg0.extractLsb' 0 16 ≤ s.params.pulseMaxTicks ∧
      s.regs.arg1.extractLsb' 0 16 ≤ s.params.pulseMaxTicks) ∧
    ∀ n ∈ [1, 3, 5], (u n).seq.busy = false ∧ (u n).pulse.ch = .inFlight ∧ (u n).params.ticksFit = true ∧
      (u n).pulse.active = true ∧ quiet ((u n).setPulse { (u n).pulse with active := false }) = true ∧
      (u n).draws.turns = seqTurns (u n).pulse.active n ++ [] ∧
      (u n).regs.argw0 = true ∧ (u n).regs.argw1 = true ∧ (u n).regs.arg0.extractLsb' 16 16 = 0 ∧
      (u n).regs.arg1.extractLsb' 16 16 = 0 ∧ (u n).regs.arg0.extractLsb' 0 16 ≤ (u n).params.pulseMaxTicks ∧
      (u n).regs.arg1.extractLsb' 0 16 ≤ (u n).params.pulseMaxTicks := by decide

theorem witness_SecondPulseFailsAtOnce :
    let s := turning [.seq] (answering [.ok, .ok] (args 10 5 ref))
    quiet s = true ∧ s.seq.busy = false ∧ s.pulse.ch ≠ .inFlight ∧ s.regs.argw0 = true ∧ s.regs.argw1 = true ∧
    s.regs.arg0.extractLsb' 16 16 = 0 ∧ s.regs.arg1.extractLsb' 16 16 = 0 ∧
    s.regs.arg0.extractLsb' 0 16 ≤ s.params.pulseMaxTicks ∧ s.regs.arg1.extractLsb' 0 16 ≤ s.params.pulseMaxTicks ∧
    s.draws.answers = List.replicate (answersNeeded s.pulse.ch 1) .ok ++ [] ∧ s.draws.turns = [.seq] := by decide

theorem witness_PowerRoundTrip : quiet ref = true ∧ ref.seq.busy = false ∧ ref.cfg = 0x12 := by decide

/-- The state after `n` steps, or the state itself where a step stops. -/
def ranTo (n : Nat) (s : State) : State :=
  match Host.Core.run Sys2Proof.core n s with
  | .next t => t
  | .fault _ | .refused _ => s

/-- The state after a command's issue, likewise. -/
def issued (i : Instr) (s : State) : State :=
  match exec i s with
  | .next t => t
  | .fault _ | .refused _ => s

theorem issued_eq (i : Instr) (s : State) : exec i s = .next (issued i s) := by
  obtain ⟨t, h⟩ := exec_isNext i s
  simp [issued, h]

/-- Whether `n` steps all answer a next state. -/
def runsOn (n : Nat) (s : State) : Bool := (nextOf (Host.Core.run Sys2Proof.core n s)).isSome

theorem runs_ranTo {n : Nat} {s : State} (h : runsOn n s = true) : Runs n s (ranTo n s) := by
  have e : ∀ r : Result, (nextOf r).isSome = true → r = .next (match r with
      | .next t => t
      | .fault _ | .refused _ => s) := by
    intro r hr
    cases r <;> first | rfl | cases hr
  exact e _ h

/-- Enough answers and turns for FRAME_START and FRAME_END from REF. -/
def framed : State := turning (List.replicate 9 .ptx) (answering (List.replicate 19 .ok) ref)

theorem witness_EmptyFrameEndsDark :
    ∃ t u v w, quiet framed = true ∧ framed.seq.busy = false ∧ exec .frameStart framed = .next t ∧ Runs 29 t u ∧
      u.seq.busy = false ∧ u.seq.err = .none ∧ exec .frameEnd u = .next v ∧ Runs 10 v w ∧ w.seq.busy = false ∧
      w.seq.err = .none := by
  refine ⟨_, _, _, _, ?_, ?_, issued_eq _ _, runs_ranTo ?_, ?_, ?_, issued_eq _ _, runs_ranTo ?_, ?_, ?_⟩ <;> decide +kernel

theorem witness_SetfChangesOneField :
    Field.mode ≠ .stv ∧ getField .stv ref.cfg = true ∧ ref.cfg = 0x12 := by decide

theorem witness_WaveformShape : (0 : Half) < 0xFFFF := by decide

theorem witness_LongDurationStopsSeq :
    let s := (atUop (.pulse true) 0 .none ref).setSeq { (atUop (.pulse true) 0 .none ref).seq with a0 := 0x8000 }
    s.params.pulseMaxTicks < 0x8000 ∧ currentUop s = some (.pulse 0x8000 5 true) ∧ s.seq.hold = .none := by decide

theorem witness_ConsumedChannelFailsAtOnce :
    let s := atUop (.pulse true) 0 .none (chan (playing 1 1) ref)
    10 ≤ s.params.pulseMaxTicks ∧ 5 ≤ s.params.pulseMaxTicks ∧ currentUop s = some (.pulse 10 5 true) ∧
    s.seq.hold = .none ∧ s.pulse.ch = .inFlight := by decide

theorem witness_PulseSubmission :
    let s := answering [.fail] ref
    let u := owning [.inFlight] (answering [.ok, .fail] ref)
    let v := answering [.ok] (chan idleChannel ref)
    0x7FFF ≤ ref.params.pulseMaxTicks ∧ (s.pulse.ch = .uninitialized ∧ s.draws.answers = [.fail]) ∧
    (u.pulse.ch ≠ .inFlight ∧ u.draws.answers = [.ok] ++ [.fail] ∧ u.draws.owners = [.inFlight]) ∧
    (v.pulse.ch ≠ .inFlight ∧ v.draws.answers = [] ++ [.ok]) := by decide

theorem witness_CompletionAnswer :
    (answering [.ok] ref).draws.answers = [.ok] ∧
    (owning [.idle] (answering [.fail] ref)).draws.answers = [.fail] ∧
    (owning [.idle] (answering [.fail] ref)).draws.owners = [.idle] := by decide

theorem witness_ReclaimWaitsOnlyForPtx :
    ref.pulse.ch ≠ .inFlight ∧ ((chan (playing 1 1) ref).pulse.ch = .inFlight ∧
      (chan (playing 1 1) ref).pulse.active = true) ∧
    ((chan spentChannel ref).pulse.ch = .inFlight ∧ (chan spentChannel ref).pulse.active = false) := by decide

theorem witness_RowBytesAreTheBuffer :
    let s := byting [0xEE] (ref.setBuf [(0, 1), (1, 2), (2, 3)])
    (0 < s.params.bytesPerLine ∧ Memory.read s.buf 0 = some 1) ∧
    (3 < s.params.bytesPerLine ∧ Memory.read s.buf 3 = none ∧
      s.draws.bytes[((List.range 3).filter fun j => (Memory.read s.buf j).isNone).length]? = some 0xEE) := by decide

theorem witness_TransferOutcome : (busing [.err] ref).draws.busResults = [.err] := by decide

theorem witness_DoneAdvancesOrCompletes :
    let s := atUop .powerOff 11 .none ref
    let u := atUop .outputRow 5 .none ref
    (currentCommand s = some .powerOff ∧ currentUop s = some (.delay 0) ∧ s.seq.hold = .none ∧
      runUop (.delay 0) s = .done s ∧ s.seq = s.seq) ∧
    (currentCommand u = some .outputRow ∧ currentUop u = some .dmaRow ∧ u.seq.hold = .none ∧
      ∃ r, runUop .dmaRow u = .held .dmaDone r ∧ r.seq = u.seq) :=
  ⟨⟨rfl, rfl, rfl, rfl, rfl⟩, rfl, rfl, rfl, _, rfl, rfl⟩

theorem witness_ErrorEndsTheCommand :
    let s := atUop .skip 0 .none (chan spentChannel ref)
    let u := atUop .outputRow 5 .dmaDone (ref.setDma ⟨false, some .err⟩)
    (currentCommand s = some .skip ∧ currentUop s = some (.pulse 15 1 true) ∧ s.seq.hold = .none ∧
      runUop (.pulse 15 1 true) s = .error .channelUnavailable s) ∧
    (currentCommand u = some .outputRow ∧ currentUop u = some .dmaRow ∧ u.seq.hold ≠ .none ∧
      ∃ r, resumeUop .dmaRow (u.setSeq { u.seq with hold := .none }) = some (.error .busTransfer r)) :=
  ⟨⟨rfl, rfl, rfl, rfl⟩, rfl, rfl, by decide, _, rfl⟩

/-- Each clause at a boundary of its range; REF's window ends at `0x104`. -/
theorem witness_BadAccessesOnlyFault :
    let lineEnd := 0x100 + ref.params.bytesPerLine
    ((0x001 : Offset).toNat % 4 ≠ 0) ∧ ((0x104 : Offset).toNat % 1 = 0 ∧ lineEnd ≤ (0x104 : Offset).toNat) ∧
    ((0x102 : Offset).toNat % 2 = 0 ∧ 0x100 ≤ (0x102 : Offset).toNat ∧ (0x102 : Offset).toNat < lineEnd) ∧
    ((0x0FF : Offset).toNat % 1 = 0 ∧ (1 : Nat) ≠ 4 ∧ (0x0FF : Offset).toNat < 0x100) ∧
    ((0x014 : Offset).toNat % 4 = 0 ∧ 0x014 ≤ (0x014 : Offset).toNat ∧ (0x014 : Offset).toNat < 0x100) ∧
    ((0x0FC : Offset).toNat % 4 = 0 ∧ 0x014 ≤ (0x0FC : Offset).toNat ∧ (0x0FC : Offset).toNat < 0x100) := by decide

theorem witness_BufferWriteReadsBack :
    ((0x100 : Offset).toNat = 0x100 + 0 ∧ 0 < ref.params.bytesPerLine ∧ ref.seq.busy = false) ∧
    ((0x103 : Offset).toNat = 0x100 + 3 ∧ 3 < ref.params.bytesPerLine ∧ (atUop .skip 0 .none ref).seq.busy = true) := by
  decide

theorem witness_HostReadValues :
    let s := args 1 2 (ref.setBuf [(3, 9)])
    let u := byting [7] (wording [5] ref)
    ((0x103 : Offset).toNat = 0x100 + 3 ∧ 3 < s.params.bytesPerLine ∧ s.regs.argw0 = true ∧ s.regs.argw1 = true ∧
      Memory.read s.buf 3 = some 9) ∧
    (u.regs.argw0 = false ∧ u.regs.argw1 = false ∧ u.draws.words = [5] ∧ Memory.read u.buf 3 = none ∧
      u.draws.bytes = [7]) := by decide

theorem witness_SetBufferWritesThePrefix :
    let s := prog (copyBytes 0 [1, 2, 3, 4]) ref
    s.params.lineFits = true ∧ s.params.bytesPerLine < [(1 : Byte), 2, 3, 4, 5].length ∧
    Asm.expand s.params (.setBuffer [1, 2, 3, 4]) = some (copyBytes 0 [1, 2, 3, 4]) ∧
    quiet (s.setHost { s.host with program := [] }) = true ∧ s.seq.busy = false ∧
    s.host.program = copyBytes 0 [1, 2, 3, 4] := by decide

/-- A state in which PTX plays and SEQ waits for it. -/
def waiting : State := turning [.ptx] (atUop (.pulse true) 0 .pulseDone (chan (playing 10 5) ref))

theorem waiting_seqInv : SeqInv waiting :=
  ⟨fun _ => ⟨.pulse 10 5 true, rfl, rfl, rfl, fun _ => rfl⟩, fun h => by cases h⟩

theorem witness_StepKeepsChannelInvariant :
    PulseInv waiting.pulse ∧ SeqInv waiting ∧ ∃ t, step waiting = .next t :=
  ⟨⟨fun _ => rfl, rfl, by decide, by decide⟩, waiting_seqInv, _, rfl⟩

theorem witness_StepKeepsSequencerInvariant :
    SeqInv waiting ∧ DmaInv waiting ∧ ∃ t, step waiting = .next t :=
  ⟨waiting_seqInv, fun h => (by cases h), _, rfl⟩

theorem witness_StepKeepsBufferForm :
    let s := prog [.write 0x100 1 7] (ref.setBuf [(0, 1), (3, 2)])
    BufInv s ∧ ∃ t, step s = .next t := ⟨⟨rfl, rfl⟩, _, rfl⟩

theorem witness_StepKeepsPanelReplay :
    let s := atUop .powerOn 1 .none ref
    TraceInv s ∧ ∃ t, step s = .next t := ⟨rfl, _, rfl⟩

theorem witness_StepsOnlyAddHistory : (∃ t, step waiting = .next t) ∧ ModelFault.width ∈ (recordFault .width ref).faults :=
  ⟨⟨_, rfl⟩, by decide⟩

theorem witness_AgentsKeepToTheirState :
    (∃ t, agentStep .host (prog [.read 0x00C 4] ref) = .next t) ∧ (∃ t, agentStep .seq (atUop .powerOn 1 .none ref) = .next t) ∧
    (∃ t, agentStep .ptx waiting = .next t) ∧ ∃ t, agentStep .dma (busing [.ok] ref) = .next t :=
  ⟨⟨_, rfl⟩, ⟨_, rfl⟩, ⟨_, rfl⟩, _, rfl⟩

theorem witness_ChannelStaysInitialized : (∃ t, step waiting = .next t) ∧ waiting.pulse.ch ≠ .uninitialized :=
  ⟨⟨_, rfl⟩, by decide⟩

/-- A consumed channel with its transmission over, at RECLAIM's uop. -/
def reclaiming : State := answering [.ok] (atUop .reclaim 0 .none (chan spentChannel ref))

theorem witness_ChannelReturnsOnlyOnReclaim :
    SeqInv reclaiming ∧ ∃ t, step reclaiming = .next t ∧ reclaiming.pulse.ch = .inFlight ∧ t.pulse.ch ≠ .inFlight :=
  ⟨⟨fun _ => ⟨.reclaim, rfl, rfl, rfl, fun h => (by cases h)⟩, fun h => by cases h⟩, _, rfl, rfl, by decide⟩

theorem witness_ErrorsByCommand :
    SeqInv reclaiming ∧ ∃ t, step reclaiming = .next t ∧ reclaiming.seq.busy = true ∧ t.seq.busy = false ∧
      currentCommand reclaiming = some .reclaim :=
  ⟨⟨fun _ => ⟨.reclaim, rfl, rfl, rfl, fun h => (by cases h)⟩, fun h => by cases h⟩, _, rfl, rfl, rfl, rfl⟩

theorem witness_FinalStatesRest : ref.final = true := by decide

theorem witness_StuckAfterLongDuration :
    let s := recordFault .durRange (atUop (.pulse true) 0 .none ref)
    let u := prog [.waitIdle] s
    (s.seq.busy = true ∧ .durRange ∈ s.faults ∧ s.host.program = [] ∧ s.pulse.active = false ∧ s.dma.active = false) ∧
    (u.seq.busy = true ∧ .durRange ∈ u.faults ∧ (∃ r, u.host.program = .waitIdle :: r) ∧ u.pulse.active = false ∧
      u.dma.active = false) :=
  ⟨by decide, by decide, by decide, ⟨_, rfl⟩, by decide, by decide⟩

end Sys2Proof.Tests
end

namespace Sys2Proof.Machine

/-! ### Steps, by agent -/

/-- A step of the machine is a step of an enabled agent, or none moves; in either case a draw may be taken first, for the
turn (R13, R81). -/
theorem step_moves {s t : State} (h : step s = .next t) :
    ∃ d, t = s.setDraws d ∨ ∃ a, enabled (s.setDraws d) a = true ∧ agentStep a (s.setDraws d) = .next t := by
  obtain ⟨d, hd⟩ := spendTurn_eq s
  obtain ⟨a, he, ha⟩ | ⟨a, he, ha⟩ | ht | ht := step_cases h
  · exact ⟨s.draws, .inr ⟨a, he, ha⟩⟩
  · exact ⟨d, .inr ⟨a, by rwa [enabled_setDraws], hd ▸ ha⟩⟩
  · exact ⟨d, .inl (ht.trans hd)⟩
  · exact ⟨s.draws, .inl ht⟩

/-- When SEQ moves, a command runs and what it waits for has come (R134, R135). -/
theorem busy_and_lifted_of_enabled {s : State} (h : enabled s .seq = true) :
    s.seq.busy = true ∧ holdLifted s = true := by
  simp only [enabled, Bool.and_eq_true] at h
  exact ⟨h.1.1, h.2⟩

/-- How the uop ends that a step of SEQ runs, or resumes with the hold cleared (R134, R135). -/
def Ends (u : Uop) (s : State) (r : UopEnd) : Prop :=
  (s.seq.hold = .none ∧ r = runUop u s) ∨ (s.seq.hold ≠ .none ∧ resumeUop u (setHold .none s) = some r)

/-- A step of SEQ is the end of the uop at `upc`, and what follows that end. -/
theorem seqStep_ends {s t : State} (h : seqStep s = .next t) :
    ∃ i u r, currentCommand s = some i ∧ currentUop s = some u ∧ Ends u s r ∧
      t = endUop i (uopsOf s.params s.seq.a0 s.seq.a1 i).length r := by
  obtain ⟨i, u, hi, hu, ⟨hh, ht⟩ | ⟨hh, r, hr, ht⟩⟩ := seqStep_cases h
  · exact ⟨i, u, _, hi, hu, .inl ⟨hh, rfl⟩, ht⟩
  · exact ⟨i, u, r, hi, hu, .inr ⟨hh, hr⟩, ht⟩

/-- A resume part takes a completion answer, or looks at the outcome of a row transfer (R178, R186, R200). -/
theorem resumeUop_cases {u : Uop} {s : State} {r : UopEnd} (h : resumeUop u s = some r) :
    ((u = .reclaim ∨ ∃ a b wt, u = .pulse a b wt) ∧ r = takeCompletion s) ∨ (u = .dmaRow ∧ r = resumeDma s) := by
  cases u with
  | setf _ _ | shift | delay _ => cases h
  | pulse a b wt => exact .inl ⟨.inr ⟨a, b, wt, rfl⟩, (Option.some.inj h).symm⟩
  | reclaim => exact .inl ⟨.inl rfl, (Option.some.inj h).symm⟩
  | dmaRow => exact .inr ⟨rfl, (Option.some.inj h).symm⟩

/-- The end of a row transfer's wait leaves the state as it is, done or not. -/
theorem resumeDma_cases (s : State) : resumeDma s = .done s ∨ resumeDma s = .error .busTransfer s := by
  unfold resumeDma
  split
  · exact .inl rfl
  · exact .inr rfl

/-- What RECLAIM's own step can do (R186). -/
theorem reclaimUop_cases (s : State) :
    (s.pulse.ch ≠ .inFlight ∧ reclaimUop s = .done s) ∨
    (s.pulse.ch = .inFlight ∧ s.pulse.active = true ∧ reclaimUop s = .held .pulseDone s) ∨
    (s.pulse.ch = .inFlight ∧ s.pulse.active = false ∧ reclaimUop s = takeCompletion s) := by
  unfold reclaimUop
  by_cases hc : s.pulse.ch = .inFlight
  · cases ha : s.pulse.active <;> simp [hc, resumeReclaim]
  · simp [hc]

/-- DMA_ROW sets the transfer going, draws the unwritten bytes, emits its event and waits (R200). -/
theorem dmaRowUop_eq (s : State) : ∃ d, dmaRowUop s = .held .dmaDone
    (emit (.dmaTx (rowBytes s.params.bytesPerLine 0 s)) ((s.setDraws d).setDma { s.dma with active := true })) := by
  obtain ⟨d, e⟩ := spendRow_eq s.params.bytesPerLine 0 s
  exact ⟨d, by simp [dmaRowUop, e]⟩

/-- What follows a uop that is done (R134, R136): the command completes, or SEQ goes on. -/
theorem endUop_done_cases (i : Instr) (n : Nat) (s : State) :
    (s.seq.upc + 1 = n ∧ endUop i n (.done s) = complete i (advance s)) ∨
    (s.seq.upc + 1 ≠ n ∧ endUop i n (.done s) = advance s) := by
  by_cases hn : s.seq.upc + 1 = n <;> simp [endUop, hn]

/-- Of the uop's end, SEQ's registers, the phase and the trace alone are moved on. -/
theorem endUop_frame (i : Instr) (n : Nat) (r : UopEnd) :
    ∃ q ph tr, endUop i n r = { r.state with seq := q, phase := ph, trace := tr } := by
  cases r with
  | done s =>
    obtain ⟨-, e⟩ | ⟨-, e⟩ := endUop_done_cases i n s
    · exact ⟨_, _, _, e⟩
    · exact ⟨_, s.phase, s.trace, e⟩
  | held h s => exact ⟨_, s.phase, s.trace, rfl⟩
  | error e s => exact ⟨_, _, _, rfl⟩
  | stopped s => exact ⟨s.seq, s.phase, s.trace, rfl⟩

/-- The uop that SEQ runs or resumes leaves SEQ's registers to `endUop`, but for the hold, which is cleared. -/
theorem Ends.frame {u : Uop} {s : State} {r : UopEnd} (h : Ends u s r) :
    r.state.params = s.params ∧ r.state.host = s.host ∧ r.state.regs = s.regs ∧
    r.state.seq = { s.seq with hold := .none } ∧ r.state.buf = s.buf := by
  obtain ⟨hh, rfl⟩ | ⟨-, hr⟩ := h
  · obtain ⟨hp, ho, hg, hq, hb, -⟩ := runUop_frame u s
    exact ⟨hp, ho, hg, by rw [hq, ← hh], hb⟩
  · obtain ⟨hp, ho, hg, hq, hb, -⟩ := resumeUop_frame hr
    exact ⟨hp, ho, hg, hq, hb⟩

/-- A step of SEQ leaves the parameters, the HOST's side, the operand registers and the row buffer (R21, R217). -/
theorem seqStep_frame {s t : State} (h : seqStep s = .next t) :
    t.params = s.params ∧ t.host = s.host ∧ t.regs = s.regs ∧ t.buf = s.buf := by
  obtain ⟨i, u, r, -, -, hr, rfl⟩ := seqStep_ends h
  obtain ⟨q, ph, tr, e⟩ := endUop_frame i (uopsOf s.params s.seq.a0 s.seq.a1 i).length r
  obtain ⟨hp, ho, hg, -, hb⟩ := hr.frame
  rw [e]
  exact ⟨hp, ho, hg, hb⟩

/-! ### The HOST's steps -/

/-- A step of the HOST is the access its next statement makes, taken off the program; none if the program is over. -/
theorem hostStep_cases {s t : State} (h : hostStep s = .next t) :
    ∃ p, t = s.setHost { s.host with program := p } ∨
      ∃ a, hostAccess a (s.setHost { s.host with program := p }) = .next t := by
  unfold hostStep at h
  split at h
  · exact ⟨s.host.program, .inl (Host.Outcome.next.inj h).symm⟩
  · exact ⟨_, .inr ⟨_, h⟩⟩

/-- The issue of a command touches SEQ, the phase, the model faults and the trace alone (R131). -/
theorem issue_frame (i : Instr) (present : Bool) (s : State) :
    ∃ q ph fs tr, issue i present s = { s with seq := q, phase := ph, faults := fs, trace := tr } := by
  obtain ⟨-, e⟩ | ⟨-, ⟨-, e⟩ | ⟨-, -, e⟩ | ⟨-, -, -, e⟩ | ⟨-, -, -, e⟩⟩ := issue_cases i present s <;> rw [e]
  · exact ⟨s.seq, s.phase, _, s.trace, recordFault_eq _ s⟩
  · exact ⟨_, s.phase, s.faults, _, rfl⟩
  · exact ⟨_, s.phase, _, _, recordFault_eq _ _⟩
  · exact ⟨_, s.phase, s.faults, _, rfl⟩
  · exact ⟨_, _, s.faults, _, rfl⟩

/-- What an illegal word can do (R130, R132). -/
theorem issueIllegal_cases (v : Word) (s : State) :
    (s.seq.busy = true ∧ issueIllegal v s = recordFault .cmdBusy s) ∨
    (s.seq.busy = false ∧ issueIllegal v s = endIllegal (latchCommand (opField v) (waitField v) s)) := by
  unfold issueIllegal
  cases s.seq.busy <;> simp

/-- What a byte write to the row buffer can do (R74, R76). -/
theorem writeBuf_cases (i : Nat) (b : Byte) (s : State) :
    (s.seq.busy = true ∧ writeBuf i b s = recordFault .busyWrite s) ∨
    (s.seq.busy = false ∧ writeBuf i b s = s.setBuf (Memory.write s.buf i b)) := by
  unfold writeBuf
  cases s.seq.busy <;> simp

/-- What a HOST access never touches: CFG, the pulse side, DMA, the lines, the panel, the parameters. -/
theorem hostAccess_frame {a : Access} {s t : State} (h : hostAccess a s = .next t) :
    ∃ ho rg q b ph fs tr d, t =
      { s with host := ho, regs := rg, seq := q, buf := b, phase := ph, faults := fs, trace := tr, draws := d } := by
  obtain ⟨i, p, rfl⟩ | ⟨v, rfl⟩ | ⟨v, r, rfl⟩ | ⟨i, b, -, rfl⟩ | ⟨off, width, v, d, rfl⟩ | ⟨k, rfl⟩ :=
    hostAccess_cases h
  · obtain ⟨q, ph, fs, tr, e⟩ := issue_frame i p s
    exact ⟨s.host, s.regs, q, s.buf, ph, fs, tr, s.draws, e⟩
  · obtain ⟨-, e⟩ | ⟨-, e⟩ := issueIllegal_cases v s
    · exact ⟨s.host, s.regs, s.seq, s.buf, s.phase, _, s.trace, s.draws, e.trans (recordFault_eq _ s)⟩
    · exact ⟨s.host, s.regs, _, s.buf, s.phase, s.faults, _, s.draws, e⟩
  · exact ⟨s.host, _, s.seq, s.buf, s.phase, s.faults, s.trace, s.draws, rfl⟩
  · obtain ⟨-, e⟩ | ⟨-, e⟩ := writeBuf_cases i b s
    · exact ⟨s.host, s.regs, s.seq, s.buf, s.phase, _, s.trace, s.draws, e.trans (recordFault_eq _ s)⟩
    · exact ⟨s.host, s.regs, s.seq, _, s.phase, s.faults, s.trace, s.draws, e⟩
  · exact ⟨_, s.regs, s.seq, s.buf, s.phase, s.faults, s.trace, d, rfl⟩
  · exact ⟨s.host, s.regs, s.seq, s.buf, s.phase, _, s.trace, s.draws, recordFault_eq k s⟩

/-- Nor does a step of the HOST. -/
theorem hostStep_frame {s t : State} (h : hostStep s = .next t) :
    t.params = s.params ∧ t.cfg = s.cfg ∧ t.pulse = s.pulse ∧ t.dma = s.dma ∧ t.lines = s.lines ∧
    t.panel = s.panel := by
  obtain ⟨p, rfl | ⟨a, ha⟩⟩ := hostStep_cases h
  · exact ⟨rfl, rfl, rfl, rfl, rfl, rfl⟩
  · obtain ⟨ho, rg, q, b, ph, fs, tr, d, rfl⟩ := hostAccess_frame ha
    exact ⟨rfl, rfl, rfl, rfl, rfl, rfl⟩

end Sys2Proof.Machine

namespace Sys2Proof.Machine

/-! ### What a step can do to the pulse channel (R32, R33, R40) -/

/-- A PULSE uop waits for PTX alone, and only where it is waited (R178, R179). -/
theorem mayHold_pulse_iff (a b : Half) (wt : Bool) (h : Hold) :
    mayHold (.pulse a b wt) h = true ↔ h = .none ∨ (h = .pulseDone ∧ wt = true) := by
  cases h with
  | none => exact iff_of_true rfl (.inl rfl)
  | pulseDone => exact ⟨fun hw => .inr ⟨rfl, hw⟩, fun hw => (hw.resolve_left nofun).2⟩
  | dmaDone => exact iff_of_false nofun (by simp)

/-- RECLAIM waits for PTX alone (R186). -/
theorem mayHold_reclaim_iff (h : Hold) : mayHold .reclaim h = true ↔ h = .none ∨ h = .pulseDone := by
  cases h <;> decide

/-- SEQ's step takes a completion answer: in RECLAIM's own step, or in the resume part of a uop that has one. -/
def TakesAnswer (s : State) : Prop :=
  s.seq.busy = true ∧ ∃ u, currentUop s = some u ∧
    ((s.seq.hold = .none ∧ u = .reclaim ∧ s.pulse.ch = .inFlight ∧ s.pulse.active = false) ∨
     (s.seq.hold ≠ .none ∧ holdLifted s = true ∧ (u = .reclaim ∨ ∃ a b wt, u = .pulse a b wt)))

/-- Under SEQ's invariant an answer is taken on a consumed channel with PTX at rest, by RECLAIM or a waited PULSE. -/
theorem TakesAnswer.of_seqInv {s : State} (h : TakesAnswer s) (hs : SeqInv s) :
    s.pulse.ch = .inFlight ∧ s.pulse.active = false ∧
    ∃ u, currentUop s = some u ∧ (u = .reclaim ∨ ∃ a b, u = .pulse a b true ∧ s.seq.hold = .pulseDone) := by
  obtain ⟨hb, u, hu, ⟨-, rfl, hc, ha⟩ | ⟨hh, hl, hk⟩⟩ := h
  · exact ⟨hc, ha, _, hu, .inl rfl⟩
  · obtain ⟨v, hv, hm, -, hc⟩ := hs.1 hb
    obtain rfl : u = v := Option.some.inj (hu.symm.trans hv)
    have lifted : s.seq.hold = .pulseDone → s.pulse.active = false := fun hd => by
      simpa only [holdLifted, hd, Bool.not_eq_true'] using hl
    obtain rfl | ⟨a, b, wt, rfl⟩ := hk
    · have hd := ((mayHold_reclaim_iff _).mp hm).resolve_left hh
      exact ⟨hc hd, lifted hd, _, hu, .inl rfl⟩
    · obtain ⟨hd, rfl⟩ := ((mayHold_pulse_iff a b wt _).mp hm).resolve_left hh
      exact ⟨hc hd, lifted hd, _, hu, .inr ⟨a, b, rfl, hd⟩⟩

/-- Everything one step can make of the pulse side: nothing; a failed submission, after a first initialization or on an
Idle channel (R176, R177); a submission (R177); a completion answer, OK or FAIL (R178, R186); PTX's completion (R180). -/
inductive PulseMove (s : State) : PulseUnit → Prop where
  | unchanged : PulseMove s s.pulse
  | initialized (o : Owner) (hc : s.pulse.ch = .uninitialized) :
      PulseMove s { s.pulse with ch := Owner.channel o, line := .low }
  | submissionFailed (o : Owner) (hc : s.pulse.ch = .idle) : PulseMove s { s.pulse with ch := Owner.channel o }
  | submitted (a b : Half) (hc : s.pulse.ch ≠ .inFlight) : PulseMove s (playing a b)
  | answered (o : Owner) (ht : TakesAnswer s) : PulseMove s { s.pulse with ch := Owner.channel o }
  | ended (ha : s.pulse.active = true) : PulseMove s { s.pulse with active := false, wf := none, line := .low }

/-- A submission plays the waveform, or draws the channel's owner. -/
theorem submitPulse_pulse (a b : Half) (wt : Bool) (s : State) :
    (submitPulse a b wt s).state.pulse = playing a b ∨
    ∃ o : Owner, (submitPulse a b wt s).state.pulse = { s.pulse with ch := Owner.channel o } := by
  obtain ⟨-, e⟩ | ⟨-, -, e⟩ | ⟨-, -, e⟩ := submitPulse_cases a b wt s <;> rw [e]
  · exact .inr ⟨_, rfl⟩
  · exact .inl rfl
  · exact .inl rfl

theorem pulseUop_pulseMove (a b : Half) (wt : Bool) (s : State) : PulseMove s (pulseUop a b wt s).state.pulse := by
  obtain ⟨-, e⟩ | ⟨-, ⟨-, e⟩ | ⟨-, -, e⟩ | ⟨hc, -, e⟩ | ⟨hc, e⟩⟩ := pulseUop_cases a b wt s <;> rw [e]
  · rw [recordFault_eq]
    exact .unchanged
  · exact .unchanged
  · exact .unchanged
  · obtain e | ⟨o, e⟩ := submitPulse_pulse a b wt (initChannel (spendAnswer s)) <;> rw [e]
    · exact .submitted a b (by simp [hc])
    · exact .initialized o hc
  · obtain e | ⟨o, e⟩ := submitPulse_pulse a b wt s <;> rw [e]
    · exact .submitted a b (by simp [hc])
    · exact .submissionFailed o hc

/-- A completion answer draws the channel's owner, or gives it back to the ENGINE. -/
theorem takeCompletion_pulse (s : State) :
    ∃ o : Owner, (takeCompletion s).state.pulse = { s.pulse with ch := Owner.channel o } := by
  obtain ⟨-, e⟩ | ⟨-, e⟩ := takeCompletion_cases s <;> rw [e]
  · exact ⟨.idle, rfl⟩
  · exact ⟨_, rfl⟩

theorem runUop_pulseMove {u : Uop} {s : State} (hb : s.seq.busy = true) (hu : currentUop s = some u)
    (hh : s.seq.hold = .none) : PulseMove s (runUop u s).state.pulse := by
  cases u with
  | setf f b => exact .unchanged
  | shift =>
    rw [runUop, shiftUop_eq]
    exact .unchanged
  | delay n =>
    rw [runUop, delayUop_eq]
    exact .unchanged
  | pulse a b wt => exact pulseUop_pulseMove a b wt s
  | reclaim =>
    obtain ⟨-, e⟩ | ⟨-, -, e⟩ | ⟨hc, ha, e⟩ := reclaimUop_cases s <;> rw [runUop, e]
    · exact .unchanged
    · exact .unchanged
    · obtain ⟨o, e⟩ := takeCompletion_pulse s
      rw [e]
      exact .answered o ⟨hb, _, hu, .inl ⟨hh, rfl, hc, ha⟩⟩
  | dmaRow =>
    obtain ⟨d, e⟩ := dmaRowUop_eq s
    rw [runUop, e]
    exact .unchanged

theorem Ends.pulseMove {u : Uop} {s : State} {r : UopEnd} (h : Ends u s r) (hs : enabled s .seq = true)
    (hu : currentUop s = some u) : PulseMove s r.state.pulse := by
  obtain ⟨hb, hl⟩ := busy_and_lifted_of_enabled hs
  obtain ⟨hh, rfl⟩ | ⟨hh, hr⟩ := h
  · exact runUop_pulseMove hb hu hh
  · obtain ⟨hk, rfl⟩ | ⟨-, rfl⟩ := resumeUop_cases hr
    · obtain ⟨o, e⟩ := takeCompletion_pulse (setHold .none s)
      rw [e]
      exact .answered o ⟨hb, u, hu, .inr ⟨hh, hl, hk⟩⟩
    · obtain e | e := resumeDma_cases (setHold .none s) <;> rw [e] <;> exact .unchanged

theorem agentStep_pulseMove {a : Agent} {s t : State} (he : enabled s a = true) (h : agentStep a s = .next t) :
    PulseMove s t.pulse := by
  cases a with
  | host =>
    obtain ⟨-, -, hp, -⟩ := hostStep_frame h
    rw [hp]
    exact .unchanged
  | seq =>
    obtain ⟨i, u, r, -, hu, hr, rfl⟩ := seqStep_ends h
    obtain ⟨q, ph, tr, e⟩ := endUop_frame i (uopsOf s.params s.seq.a0 s.seq.a1 i).length r
    rw [e]
    exact hr.pulseMove he hu
  | ptx =>
    obtain rfl := Host.Outcome.next.inj h
    exact .ended he
  | dma =>
    obtain rfl := Host.Outcome.next.inj h
    exact .unchanged

/-- A step of the machine makes a `PulseMove`, from the state with the turn drawn. -/
theorem step_pulseMove {s t : State} (h : step s = .next t) : ∃ d, PulseMove (s.setDraws d) t.pulse := by
  obtain ⟨d, rfl | ⟨a, he, ha⟩⟩ := step_moves h
  · exact ⟨d, .unchanged⟩
  · exact ⟨d, agentStep_pulseMove he ha⟩

theorem Owner.channel_ne_uninitialized (o : Owner) : Owner.channel o ≠ .uninitialized := by
  cases o <;> simp [Owner.channel]

/-- The channel invariant survives every move of the pulse side. -/
theorem PulseMove.keeps_pulseInv {s : State} {p : PulseUnit} (h : PulseMove s p) (hp : PulseInv s.pulse)
    (hs : SeqInv s) : PulseInv p := by
  have ⟨hf, hw, hl, hu⟩ := hp
  /- Outside a transmission, on a channel initialized before, the owner may be drawn anew. -/
  have owned : ∀ o : Owner, s.pulse.active = false → s.pulse.ch ≠ .uninitialized →
      PulseInv { s.pulse with ch := Owner.channel o } := by
    intro o ha hc
    exact ⟨by simp [ha], hw, hl, by simp [Owner.channel_ne_uninitialized o, ← hu, hc]⟩
  have rest : s.pulse.ch ≠ .inFlight → s.pulse.active = false := fun hc =>
    Bool.eq_false_iff.mpr fun ha => hc (hf ha)
  cases h with
  | unchanged => exact hp
  | initialized o hc =>
    have ha : s.pulse.active = false := rest (by simp [hc])
    exact ⟨by simp [ha], hw, by simp [ha], by simp [Owner.channel_ne_uninitialized o]⟩
  | submissionFailed o hc => exact owned o (rest (by simp [hc])) (by simp [hc])
  | submitted a b hc => simp [PulseInv, playing]
  | answered o ht =>
    obtain ⟨hc, ha, -⟩ := ht.of_seqInv hs
    exact owned o ha (by simp [hc])
  | ended ha => exact ⟨by simp, rfl, by simp, by simp [hf ha]⟩

/-- Settles O48: every step is a `PulseMove`, and each of those keeps the channel invariant. -/
theorem stepKeepsChannelInvariant : Obligations.StepKeepsChannelInvariant := by
  intro s t hp hs h
  obtain ⟨d, hm⟩ := step_pulseMove h
  exact hm.keeps_pulseInv hp hs

/-- Settles O56: no move of the pulse side leads back to Uninitialized. -/
theorem channelStaysInitialized : Obligations.ChannelStaysInitialized := by
  intro s t h hc
  obtain ⟨d, hm⟩ := step_pulseMove h
  generalize t.pulse = p at hm ⊢
  cases hm with
  | unchanged | ended _ => exact hc
  | initialized o _ | submissionFailed o _ | answered o _ => exact Owner.channel_ne_uninitialized o
  | submitted a b _ => simp [playing]

/-- Settles O57: of the moves of the pulse side, only a completion answer leads out of InFlight. -/
theorem channelReturnsOnlyOnReclaim : Obligations.ChannelReturnsOnlyOnReclaim := by
  intro s t hs h hc ht
  obtain ⟨d, hm⟩ := step_pulseMove h
  generalize t.pulse = p at hm ht
  cases hm with
  | unchanged | ended _ => exact absurd hc ht
  | initialized o hx | submissionFailed o hx => exact absurd (hx.symm.trans hc) (by simp)
  | submitted a b hx => exact absurd hc hx
  | answered o hx =>
    obtain ⟨-, ha, hu⟩ := hx.of_seqInv (s := s.setDraws d) hs
    exact ⟨hx.1, ha, hu⟩

end Sys2Proof.Machine

namespace Sys2Proof.Machine

/-! ### SEQ's invariant and the DMA agent's (R30, R31, R34, R135) -/

/-- What the end of a uop must meet for `endUop` to keep both invariants: a hold is one its uop may have, a pulse hold
finds the channel consumed, and a row transfer is in progress only under its hold. -/
def UopEnd.MeetsHold (u : Uop) : UopEnd → Prop
  | .held h r => mayHold u h = true ∧ (h = .pulseDone → r.pulse.ch = .inFlight) ∧ (r.dma.active = true → h = .dmaDone)
  | .done r | .error _ r | .stopped r => r.dma.active = false

theorem submitPulse_meetsHold (a b : Half) (wt : Bool) {s : State} (hd : s.dma.active = false) :
    (submitPulse a b wt s).MeetsHold (.pulse a b wt) := by
  obtain ⟨-, e⟩ | ⟨-, rfl, e⟩ | ⟨-, rfl, e⟩ := submitPulse_cases a b wt s <;> rw [e]
  · exact hd
  · exact ⟨rfl, fun _ => rfl, fun ha => absurd (hd.symm.trans ha) nofun⟩
  · exact hd

theorem takeCompletion_meetsHold (u : Uop) {s : State} (hd : s.dma.active = false) :
    (takeCompletion s).MeetsHold u := by
  obtain ⟨-, e⟩ | ⟨-, e⟩ := takeCompletion_cases s <;> rw [e] <;> exact hd

theorem runUop_meetsHold (u : Uop) {s : State} (hd : s.dma.active = false) : (runUop u s).MeetsHold u := by
  cases u with
  | setf f b => exact hd
  | shift =>
    rw [runUop, shiftUop_eq]
    exact hd
  | delay n =>
    rw [runUop, delayUop_eq]
    exact hd
  | pulse a b wt =>
    rw [runUop]
    obtain ⟨-, e⟩ | ⟨-, ⟨-, e⟩ | ⟨-, -, e⟩ | ⟨-, -, e⟩ | ⟨-, e⟩⟩ := pulseUop_cases a b wt s <;> rw [e]
    · rw [recordFault_eq]
      exact hd
    · exact hd
    · exact hd
    · exact submitPulse_meetsHold a b wt (s := initChannel (spendAnswer s)) hd
    · exact submitPulse_meetsHold a b wt hd
  | reclaim =>
    obtain ⟨-, e⟩ | ⟨hc, -, e⟩ | ⟨-, -, e⟩ := reclaimUop_cases s <;> rw [runUop, e]
    · exact hd
    · exact ⟨rfl, fun _ => hc, fun ha => absurd (hd.symm.trans ha) nofun⟩
    · exact takeCompletion_meetsHold _ hd
  | dmaRow =>
    obtain ⟨d, e⟩ := dmaRowUop_eq s
    rw [runUop, e]
    exact ⟨rfl, nofun, fun _ => rfl⟩

theorem Ends.meetsHold {u : Uop} {s : State} {r : UopEnd} (h : Ends u s r) (hd : s.dma.active = false) :
    r.MeetsHold u := by
  obtain ⟨-, rfl⟩ | ⟨-, hr⟩ := h
  · exact runUop_meetsHold u hd
  · obtain ⟨-, rfl⟩ | ⟨-, rfl⟩ := resumeUop_cases hr
    · exact takeCompletion_meetsHold u (s := setHold .none s) hd
    · obtain e | e := resumeDma_cases (setHold .none s) <;> rw [e] <;> exact hd

/-- While SEQ is idle and holds for nothing, its invariant asks no more. -/
theorem seqInv_of_idle {s : State} (hb : s.seq.busy = false) (hh : s.seq.hold = .none) : SeqInv s :=
  ⟨fun h => absurd (hb.symm.trans h) nofun, fun _ => hh⟩

/-- SEQ stands at a uop with nothing held. -/
theorem seqInv_of_at {s : State} {u : Uop} (hu : currentUop s = some u) (hb : s.seq.busy = true)
    (hh : s.seq.hold = .none) (he : s.seq.err = .none) : SeqInv s :=
  ⟨fun _ => ⟨u, hu, by rw [hh]; cases u <;> rfl, he, fun h => absurd (hh.symm.trans h) nofun⟩,
    fun h => absurd (hb.symm.trans h) nofun⟩

theorem dmaInv_of_rest {s : State} (hd : s.dma.active = false) : DmaInv s :=
  fun h => absurd (hd.symm.trans h) nofun

/-- The uop at `upc` depends on the parameters and SEQ's registers alone (R133). -/
theorem currentUop_congr {s t : State} (hp : t.params = s.params) (hq : t.seq = s.seq) :
    currentUop t = currentUop s := by
  simp only [currentUop, currentUops, currentCommand, hp, hq]

/-- The uop SEQ is at, in the list of the command it runs. -/
theorem currentUop_eq_getElem? {s : State} {i : Instr} (hi : currentCommand s = some i) :
    currentUop s = (uopsOf s.params s.seq.a0 s.seq.a1 i)[s.seq.upc]? := by
  simp only [currentUop, currentUops, hi]

/-- Past a uop that is not the last one there is another. -/
theorem currentUop_advance {s : State} {i : Instr} {u : Uop} (hi : currentCommand s = some i)
    (hu : currentUop s = some u) (hn : s.seq.upc + 1 ≠ (uopsOf s.params s.seq.a0 s.seq.a1 i).length) :
    ∃ v, currentUop (advance s) = some v := by
  rw [currentUop_eq_getElem? hi] at hu
  obtain ⟨hlt, -⟩ := List.getElem?_eq_some_iff.mp hu
  have hi' : currentCommand (advance s) = some i := hi
  rw [currentUop_eq_getElem? hi']
  have hlt' : s.seq.upc + 1 < (uopsOf s.params s.seq.a0 s.seq.a1 i).length := by omega
  exact ⟨_, List.getElem?_eq_getElem hlt'⟩

/-- What follows the end of a uop keeps both invariants: `s` is the state it ran or resumed from, its hold cleared. -/
theorem endUop_keeps {i : Instr} {u : Uop} {s : State} {r : UopEnd} (hi : currentCommand s = some i)
    (hu : currentUop s = some u) (hb : s.seq.busy = true) (hh : s.seq.hold = .none) (he : s.seq.err = .none)
    (hp : r.state.params = s.params) (hq : r.state.seq = s.seq) (hm : r.MeetsHold u) :
    let t := endUop i (uopsOf s.params s.seq.a0 s.seq.a1 i).length r
    SeqInv t ∧ DmaInv t := by
  cases r with
  | done r =>
    have hi' : currentCommand r = some i := by rw [← hi, currentCommand, currentCommand, show r.seq = s.seq from hq]
    have hu' : currentUop r = some u := (currentUop_congr hp hq).trans hu
    simp only [UopEnd.state] at hp hq
    rw [← hq] at hb hh he
    rw [← hp, ← hq]
    obtain ⟨-, e⟩ | ⟨hn, e⟩ := endUop_done_cases i (uopsOf r.params r.seq.a0 r.seq.a1 i).length r <;> simp only [e]
    · exact ⟨seqInv_of_idle rfl hh, dmaInv_of_rest hm⟩
    · obtain ⟨v, hv⟩ := currentUop_advance hi' hu' hn
      exact ⟨seqInv_of_at hv hb hh he, dmaInv_of_rest hm⟩
  | held h r =>
    obtain ⟨hm, hc, hd⟩ := hm
    simp only [UopEnd.state] at hp hq
    have hu' : currentUop (setHold h r) = some u := by
      rw [← hu, ← currentUop_congr hp hq]
      rfl
    rw [← hq] at hb he
    exact ⟨⟨fun _ => ⟨u, hu', hm, he, hc⟩, fun hn => absurd (hb.symm.trans hn) nofun⟩, fun ha => ⟨hb, hd ha⟩⟩
  | error e r => exact ⟨seqInv_of_idle rfl rfl, dmaInv_of_rest hm⟩
  | stopped r =>
    have hu' : currentUop r = some u := (currentUop_congr hp hq).trans hu
    simp only [UopEnd.state] at hq
    rw [← hq] at hb hh he
    exact ⟨seqInv_of_at hu' hb hh he, dmaInv_of_rest hm⟩

/-- No row transfer is in progress when SEQ moves: it would be waited for. -/
theorem dma_rests_of_seq_enabled {s : State} (hd : DmaInv s) (he : enabled s .seq = true) : s.dma.active = false := by
  obtain ⟨-, hl⟩ := busy_and_lifted_of_enabled he
  cases ha : s.dma.active with
  | false => rfl
  | true =>
    obtain ⟨-, hh⟩ := hd ha
    simp [holdLifted, hh, ha] at hl

theorem seqStep_keeps {s t : State} (hs : SeqInv s) (hd : DmaInv s) (he : enabled s .seq = true)
    (h : seqStep s = .next t) : SeqInv t ∧ DmaInv t := by
  obtain ⟨i, u, r, hi, hu, hr, rfl⟩ := seqStep_ends h
  obtain ⟨hb, -⟩ := busy_and_lifted_of_enabled he
  obtain ⟨-, -, -, herr, -⟩ := hs.1 hb
  obtain ⟨hp, -, -, hq, -⟩ := hr.frame
  exact endUop_keeps (s := setHold .none s) hi hu hb rfl herr hp hq (hr.meetsHold (dma_rests_of_seq_enabled hd he))

/-- SEQ's and DMA's invariants look at the parameters, SEQ, DMA and the channel's owner alone. -/
theorem invariants_congr {s t : State} (hp : t.params = s.params) (hq : t.seq = s.seq) (hc : t.pulse.ch = s.pulse.ch)
    (hd : t.dma = s.dma) (h : SeqInv s ∧ DmaInv s) : SeqInv t ∧ DmaInv t := by
  simpa only [SeqInv, DmaInv, currentUop_congr hp hq, hq, hc, hd] using h

theorem recordFault_keeps (k : ModelFault) {s : State} (h : SeqInv s ∧ DmaInv s) :
    SeqInv (recordFault k s) ∧ DmaInv (recordFault k s) := by
  rw [recordFault_eq]
  exact invariants_congr rfl rfl rfl rfl h

theorem uopsOf_ne_nil (p : Params) (a0 a1 : Half) (i : Instr) : uopsOf p a0 a1 i ≠ [] := by
  cases i <;> exact List.cons_ne_nil _ _

/-- A begun command's registers: its opcode and wait flag latched, at uop 0 with no hold and no error (R131). -/
theorem begun_seq (i : Instr) (s : State) :
    (begun i s).seq.op = opOf i ∧ (begun i s).seq.w = waitOf i ∧ (begun i s).seq.err = .none := by
  cases i <;> exact ⟨rfl, rfl, rfl⟩

/-- A command begins at the first uop of its list (R131). -/
theorem begun_seqInv (i : Instr) (s : State) : SeqInv (begun i s) := by
  obtain ⟨ho, hw, he⟩ := begun_seq i s
  have hi : currentCommand (begun i s) = some i := by
    simp only [currentCommand, ho, hw, instrOf_opOf]
  obtain ⟨u, us, hu⟩ :=
    List.exists_cons_of_ne_nil (uopsOf_ne_nil (begun i s).params (begun i s).seq.a0 (begun i s).seq.a1 i)
  refine seqInv_of_at (u := u) ?_ rfl rfl he
  rw [currentUop_eq_getElem? hi, hu]
  rfl

/-- A command is issued only where no row transfer is in progress: one would have SEQ busy. -/
theorem dma_rests_of_idle {s : State} (hd : DmaInv s) (hb : s.seq.busy = false) : s.dma.active = false :=
  Bool.eq_false_iff.mpr fun ha => absurd (hb.symm.trans (hd ha).1) nofun

theorem issue_keeps (i : Instr) (present : Bool) {s : State} (h : SeqInv s ∧ DmaInv s) :
    SeqInv (issue i present s) ∧ DmaInv (issue i present s) := by
  obtain ⟨-, e⟩ | ⟨hb, hc⟩ := issue_cases i present s
  · rw [e]
    exact recordFault_keeps _ h
  · obtain ⟨hs, hd⟩ := h
    have hr : s.dma.active = false := dma_rests_of_idle hd hb
    obtain ⟨-, e⟩ | ⟨-, -, e⟩ | ⟨-, -, -, e⟩ | ⟨-, -, -, e⟩ := hc <;> rw [e]
    · exact ⟨seqInv_of_idle hb (hs.2 hb), dmaInv_of_rest hr⟩
    · exact recordFault_keeps _ ⟨seqInv_of_idle hb (hs.2 hb), dmaInv_of_rest hr⟩
    · exact ⟨seqInv_of_idle hb (hs.2 hb), dmaInv_of_rest hr⟩
    · exact ⟨begun_seqInv i s, dmaInv_of_rest hr⟩

theorem issueIllegal_keeps (v : Word) {s : State} (h : SeqInv s ∧ DmaInv s) :
    SeqInv (issueIllegal v s) ∧ DmaInv (issueIllegal v s) := by
  obtain ⟨-, e⟩ | ⟨hb, e⟩ := issueIllegal_cases v s <;> rw [e]
  · exact recordFault_keeps _ h
  · exact ⟨seqInv_of_idle hb (h.1.2 hb), dmaInv_of_rest (dma_rests_of_idle h.2 hb)⟩

theorem hostAccess_keeps {a : Access} {s t : State} (h : SeqInv s ∧ DmaInv s) (ha : hostAccess a s = .next t) :
    SeqInv t ∧ DmaInv t := by
  obtain ⟨i, p, rfl⟩ | ⟨v, rfl⟩ | ⟨v, r, rfl⟩ | ⟨i, b, -, rfl⟩ | ⟨off, width, v, d, rfl⟩ | ⟨k, rfl⟩ :=
    hostAccess_cases ha
  · exact issue_keeps i p h
  · exact issueIllegal_keeps v h
  · exact invariants_congr rfl rfl rfl rfl h
  · obtain ⟨-, e⟩ | ⟨-, e⟩ := writeBuf_cases i b s <;> rw [e]
    · exact recordFault_keeps _ h
    · exact invariants_congr rfl rfl rfl rfl h
  · exact invariants_congr rfl rfl rfl rfl h
  · exact recordFault_keeps k h

theorem agentStep_keeps {a : Agent} {s t : State} (h : SeqInv s ∧ DmaInv s) (he : enabled s a = true)
    (ha : agentStep a s = .next t) : SeqInv t ∧ DmaInv t := by
  cases a with
  | host =>
    obtain ⟨p, rfl | ⟨a, ha⟩⟩ := hostStep_cases ha
    · exact invariants_congr rfl rfl rfl rfl h
    · refine hostAccess_keeps ?_ ha
      exact invariants_congr rfl rfl rfl rfl h
  | seq => exact seqStep_keeps h.1 h.2 he ha
  | ptx =>
    obtain rfl := Host.Outcome.next.inj ha
    exact invariants_congr rfl rfl rfl rfl h
  | dma =>
    obtain rfl := Host.Outcome.next.inj ha
    exact ⟨h.1, dmaInv_of_rest rfl⟩

/-- Settles O49: each agent's step keeps both invariants, SEQ's by what follows the end of its uop. -/
theorem stepKeepsSequencerInvariant : Obligations.StepKeepsSequencerInvariant := by
  intro s t hs hd h
  obtain ⟨d, rfl | ⟨a, he, ha⟩⟩ := step_moves h
  · exact ⟨hs, hd⟩
  · exact agentStep_keeps (s := s.setDraws d) ⟨hs, hd⟩ he ha

end Sys2Proof.Machine

namespace Sys2Proof.Machine

/-! ### The history of a run only grows, and the lines and the panel follow it (R43, R46, R50, R107) -/

/-- `t` takes nothing back that `s` has: parameters, observations, model faults, trace; and if the lines and the panel are
what the trace says in `s`, they are in `t`. -/
structure Grows (s t : State) : Prop where
  params : t.params = s.params
  seen : s.host.seen <+: t.host.seen
  faults : s.faults ⊆ t.faults
  trace : s.trace <+: t.trace
  shown : TraceInv s → TraceInv t

namespace Grows

theorem trans {s t u : State} (h : Grows s t) (k : Grows t u) : Grows s u :=
  ⟨k.params.trans h.params, h.seen.trans k.seen, List.Subset.trans h.faults k.faults, h.trace.trans k.trace,
    fun hs => k.shown (h.shown hs)⟩

/-- A change that leaves the history, the lines and the panel as they are. -/
theorem of_same {s t : State} (hp : t.params = s.params := by rfl) (hh : t.host.seen = s.host.seen := by rfl)
    (hf : t.faults = s.faults := by rfl) (ht : t.trace = s.trace := by rfl) (hl : t.lines = s.lines := by rfl)
    (hn : t.panel = s.panel := by rfl) : Grows s t :=
  ⟨hp, hh ▸ List.prefix_rfl, hf ▸ List.Subset.refl _, ht ▸ List.prefix_rfl, fun h => by
    rw [TraceInv, ht, hl, hn]
    exact h⟩

/-- A change whose one event writes no line. -/
theorem of_event {s t : State} {e : Event} (he : ∀ x, replayEvent x e = x) (ht : t.trace = s.trace ++ [e] := by rfl)
    (hp : t.params = s.params := by rfl) (hh : t.host.seen = s.host.seen := by rfl)
    (hf : t.faults = s.faults := by rfl) (hl : t.lines = s.lines := by rfl) (hn : t.panel = s.panel := by rfl) :
    Grows s t :=
  ⟨hp, hh ▸ List.prefix_rfl, hf ▸ List.Subset.refl _, ⟨_, ht.symm⟩, fun h => by
    rw [TraceInv, ht, hl, hn, replay, List.foldl_append, List.foldl_cons, List.foldl_nil, he]
    exact h⟩

end Grows

/-- A level write moves the lines and the panel as a reader of its event would (R41, R43). -/
theorem gpio_grows (line : Line) (b : Bool) (s : State) : Grows s (gpio line b s) :=
  ⟨rfl, List.prefix_rfl, List.Subset.refl _, ⟨_, rfl⟩, fun h => by
    have h' : s.trace.foldl replayEvent (⟨.unknown, .unknown, .unknown⟩, ⟨.unknown, .unknown⟩) =
        (s.lines, s.panel) := h
    rw [TraceInv, gpio_eq, replay, List.foldl_append, List.foldl_cons, List.foldl_nil, h']
    rfl⟩

theorem shiftBits_grow (bs : List Bool) (s : State) : Grows s (bs.foldl (fun t b => shiftBit b t) s) := by
  induction bs generalizing s with
  | nil => exact .of_same
  | cons b bs ih =>
    have bit : Grows s (shiftBit b s) :=
      (gpio_grows .clk false s).trans ((gpio_grows .data b _).trans (gpio_grows .clk true _))
    rw [List.foldl_cons]
    exact bit.trans (ih _)

theorem shiftUop_grows (s : State) : Grows s (shiftUop s) := by
  rw [shiftUop]
  exact (gpio_grows .str false s).trans ((shiftBits_grow _ _).trans (gpio_grows .str true _))

theorem recordFault_grows (k : ModelFault) (s : State) : Grows s (recordFault k s) := by
  refine ⟨?_, ?_, fun j hj => mem_recordFault_of_mem hj, ?_, fun h => ?_⟩ <;> rw [recordFault_eq]
  · rfl
  · exact List.prefix_rfl
  · exact List.prefix_rfl
  · exact h

theorem delayUop_grows (n : Word) (s : State) : Grows s (delayUop n s) := by
  unfold delayUop
  split
  · exact .of_same
  · exact .of_event (e := .wait n) fun _ => rfl

theorem submitPulse_grows (a b : Half) (wt : Bool) (s : State) : Grows s (submitPulse a b wt s).state := by
  obtain ⟨-, e⟩ | ⟨-, -, e⟩ | ⟨-, -, e⟩ := submitPulse_cases a b wt s <;> rw [e]
  · exact .of_same
  · exact .of_event (e := pulseTxOf a b) fun _ => rfl
  · exact .of_event (e := pulseTxOf a b) fun _ => rfl

theorem takeCompletion_grows (s : State) : Grows s (takeCompletion s).state := by
  obtain ⟨-, e⟩ | ⟨-, e⟩ := takeCompletion_cases s <;> rw [e] <;> exact .of_same

theorem runUop_grows (u : Uop) (s : State) : Grows s (runUop u s).state := by
  cases u with
  | setf f b => exact .of_same
  | shift => exact shiftUop_grows s
  | delay n => exact delayUop_grows n s
  | pulse a b wt =>
    rw [runUop]
    obtain ⟨-, e⟩ | ⟨-, ⟨-, e⟩ | ⟨-, -, e⟩ | ⟨-, -, e⟩ | ⟨-, e⟩⟩ := pulseUop_cases a b wt s <;> rw [e]
    · exact recordFault_grows _ s
    · exact .of_same
    · exact .of_same
    · have init : Grows s (initChannel (spendAnswer s)) := .of_same
      exact init.trans (submitPulse_grows a b wt _)
    · exact submitPulse_grows a b wt s
  | reclaim =>
    obtain ⟨-, e⟩ | ⟨-, -, e⟩ | ⟨-, -, e⟩ := reclaimUop_cases s <;> rw [runUop, e]
    · exact .of_same
    · exact .of_same
    · exact takeCompletion_grows s
  | dmaRow =>
    obtain ⟨d, e⟩ := dmaRowUop_eq s
    rw [runUop, e]
    exact .of_event (e := .dmaTx _) fun _ => rfl

theorem Ends.grows {u : Uop} {s : State} {r : UopEnd} (h : Ends u s r) : Grows s r.state := by
  obtain ⟨-, rfl⟩ | ⟨-, hr⟩ := h
  · exact runUop_grows u s
  · have unheld : Grows s (setHold .none s) := .of_same
    obtain ⟨-, rfl⟩ | ⟨-, rfl⟩ := resumeUop_cases hr
    · exact unheld.trans (takeCompletion_grows _)
    · obtain e | e := resumeDma_cases (setHold .none s) <;> rw [e] <;> exact unheld

theorem endUop_grows (i : Instr) (n : Nat) (r : UopEnd) : Grows r.state (endUop i n r) := by
  cases r with
  | done s =>
    obtain ⟨-, e⟩ | ⟨-, e⟩ := endUop_done_cases i n s <;> rw [e]
    · exact .of_event (e := .done .none) fun _ => rfl
    · exact .of_same
  | held h s => exact .of_same
  | error e s => exact .of_event (e := .done e) fun _ => rfl
  | stopped s => exact .of_same

theorem latchCommand_grows (op : Nibble) (w : Bool) (s : State) : Grows s (latchCommand op w s) :=
  .of_event (e := .cmd op w) fun _ => rfl

theorem endIllegal_grows (s : State) : Grows s (endIllegal s) := .of_event (e := .done .illegalCommand) fun _ => rfl

theorem issue_grows (i : Instr) (present : Bool) (s : State) : Grows s (issue i present s) := by
  have latched := latchCommand_grows (opOf i) (waitOf i) s
  obtain ⟨-, e⟩ | ⟨-, ⟨-, e⟩ | ⟨-, -, e⟩ | ⟨-, -, -, e⟩ | ⟨-, -, -, e⟩⟩ := issue_cases i present s <;> rw [e]
  · exact recordFault_grows _ s
  · exact latched.trans (endIllegal_grows _)
  · exact latched.trans (recordFault_grows _ _)
  · exact latched.trans (endIllegal_grows _)
  · exact latched.trans .of_same

theorem issueIllegal_grows (v : Word) (s : State) : Grows s (issueIllegal v s) := by
  obtain ⟨-, e⟩ | ⟨-, e⟩ := issueIllegal_cases v s <;> rw [e]
  · exact recordFault_grows _ s
  · exact (latchCommand_grows _ _ s).trans (endIllegal_grows _)

/-- What the HOST reads is added to what it has seen. -/
theorem observed_grows (s : State) (d : Draws) (o : Observation) :
    Grows s ((s.setDraws d).setHost { s.host with seen := s.host.seen ++ [o] }) :=
  ⟨rfl, ⟨_, rfl⟩, List.Subset.refl _, List.prefix_rfl, id⟩

theorem hostAccess_grows {a : Access} {s t : State} (h : hostAccess a s = .next t) : Grows s t := by
  obtain ⟨i, p, rfl⟩ | ⟨v, rfl⟩ | ⟨v, r, rfl⟩ | ⟨i, b, -, rfl⟩ | ⟨off, width, v, d, rfl⟩ | ⟨k, rfl⟩ :=
    hostAccess_cases h
  · exact issue_grows i p s
  · exact issueIllegal_grows v s
  · exact .of_same
  · obtain ⟨-, e⟩ | ⟨-, e⟩ := writeBuf_cases i b s <;> rw [e]
    · exact recordFault_grows _ s
    · exact .of_same
  · exact observed_grows s d _
  · exact recordFault_grows k s

theorem agentStep_grows {a : Agent} {s t : State} (h : agentStep a s = .next t) : Grows s t := by
  cases a with
  | host =>
    obtain ⟨p, rfl | ⟨a, ha⟩⟩ := hostStep_cases h
    · exact .of_same
    · have taken : Grows s (s.setHost { s.host with program := p }) := .of_same
      exact taken.trans (hostAccess_grows ha)
  | seq =>
    obtain ⟨i, u, r, -, -, hr, rfl⟩ := seqStep_ends h
    exact hr.grows.trans (endUop_grows _ _ r)
  | ptx =>
    obtain rfl := Host.Outcome.next.inj h
    exact .of_event (e := .pulseDone) fun _ => rfl
  | dma =>
    obtain rfl := Host.Outcome.next.inj h
    exact .of_event (e := .dmaDone _) fun _ => rfl

theorem step_grows {s t : State} (h : step s = .next t) : Grows s t := by
  obtain ⟨d, rfl | ⟨a, -, ha⟩⟩ := step_moves h
  · exact .of_same
  · have drawn : Grows s (s.setDraws d) := .of_same
    exact drawn.trans (agentStep_grows ha)

/-- Settles O51: the lines and the panel follow every event that a step adds. -/
theorem stepKeepsPanelReplay : Obligations.StepKeepsPanelReplay := by
  intro s t hs h
  exact (step_grows h).shown hs

/-- Settles O54: the history grows in every step. -/
theorem stepsOnlyAddHistory : Obligations.StepsOnlyAddHistory := by
  intro s t h
  obtain ⟨hp, ⟨obs, ho⟩, hf, ⟨evs, ht⟩, -⟩ := step_grows h
  exact ⟨⟨evs, ht.symm⟩, ⟨obs, ho.symm⟩, fun k hk => hf hk, hp⟩

/-! ### The row buffer (R35, R72) -/

/-- A HOST access leaves the row buffer as it is or writes one byte of it, within its bound (R74). -/
theorem hostAccess_buf {a : Access} {s t : State} (h : hostAccess a s = .next t) :
    t.buf = s.buf ∨ ∃ i b, i < s.params.bytesPerLine ∧ t.buf = Memory.write s.buf i b := by
  obtain ⟨i, p, rfl⟩ | ⟨v, rfl⟩ | ⟨v, r, rfl⟩ | ⟨i, b, hi, rfl⟩ | ⟨off, width, v, d, rfl⟩ | ⟨k, rfl⟩ :=
    hostAccess_cases h
  · obtain ⟨q, ph, fs, tr, e⟩ := issue_frame i p s
    exact .inl (by rw [e])
  · obtain ⟨-, e⟩ | ⟨-, e⟩ := issueIllegal_cases v s <;> rw [e]
    · exact .inl (by rw [recordFault_eq, State.setFaults_buf])
    · exact .inl rfl
  · exact .inl rfl
  · obtain ⟨-, e⟩ | ⟨-, e⟩ := writeBuf_cases i b s <;> rw [e]
    · exact .inl (by rw [recordFault_eq, State.setFaults_buf])
    · exact .inr ⟨i, b, hi, rfl⟩
  · exact .inl rfl
  · exact .inl (by rw [recordFault_eq, State.setFaults_buf])

theorem bufInv_congr {s t : State} (hp : t.params = s.params) (hb : t.buf = s.buf) (h : BufInv s) : BufInv t := by
  rwa [BufInv, hp, hb]

theorem agentStep_keeps_bufInv {a : Agent} {s t : State} (hs : BufInv s) (h : agentStep a s = .next t) : BufInv t := by
  cases a with
  | host =>
    obtain ⟨p, rfl | ⟨a, ha⟩⟩ := hostStep_cases h
    · exact hs
    · have hp := (hostAccess_grows ha).params
      obtain hb | ⟨i, b, hi, hb⟩ := hostAccess_buf ha
      · exact bufInv_congr hp hb hs
      · rw [BufInv, hp, hb]
        exact ⟨Memory.wf_write _ i b hs.1, Memory.within_write _ i b hi hs.2⟩
  | seq =>
    obtain ⟨hp, -, -, hb⟩ := seqStep_frame h
    exact bufInv_congr hp hb hs
  | ptx | dma =>
    obtain rfl := Host.Outcome.next.inj h
    exact hs

/-- Settles O50: only a HOST's byte write touches the row buffer, and it keeps the form and the bound. -/
theorem stepKeepsBufferForm : Obligations.StepKeepsBufferForm := by
  intro s t hs h
  obtain ⟨d, rfl | ⟨a, -, ha⟩⟩ := step_moves h
  · exact hs
  · exact agentStep_keeps_bufInv (s := s.setDraws d) hs ha

/-! ### Who may change what -/

/-- Settles O55, agent by agent, from the frames of the HOST's steps and of SEQ's. -/
theorem agentsKeepToTheirState : Obligations.AgentsKeepToTheirState := by
  intro a s t h
  cases a with
  | host =>
    obtain ⟨-, hc, hp, hd, hl, hn⟩ := hostStep_frame h
    exact ⟨fun _ => ⟨hc, hl, hn⟩, fun ha => absurd rfl ha, fun _ => ⟨hp, hd⟩, nofun, nofun⟩
  | seq =>
    obtain ⟨-, ho, hg, hb⟩ := seqStep_frame h
    exact ⟨fun ha => absurd rfl ha, fun _ => ⟨hg, ho, fun i => by rw [hb]⟩, nofun, nofun, nofun⟩
  | ptx =>
    obtain rfl := Host.Outcome.next.inj h
    exact ⟨fun _ => ⟨rfl, rfl, rfl⟩, fun _ => ⟨rfl, rfl, fun _ => rfl⟩, nofun, fun _ => ⟨rfl, rfl⟩, nofun⟩
  | dma =>
    obtain rfl := Host.Outcome.next.inj h
    exact ⟨fun _ => ⟨rfl, rfl, rfl⟩, fun _ => ⟨rfl, rfl, fun _ => rfl⟩, nofun, nofun, fun _ => rfl⟩

/-! ### A command word placed for the next step -/

/-- A HOST whose next statement is a write can move (R108). -/
theorem host_mem_enabledAgents {s : State} {v : Word} {rest : List Access}
    (hp : s.host.program = storeWord cmdOffset v :: rest) : Agent.host ∈ enabledAgents s := by
  simp [enabledAgents, enabled, hostEnabled, hp, storeWord]

/-- Where the HOST can move, it moves alone, or the agent is drawn. -/
theorem step_of_host_mem {s : State} (h : Agent.host ∈ enabledAgents s) :
    (enabledAgents s = [.host] ∧ step s = hostStep s) ∨ (enabledAgents s ≠ [.host] ∧ step s = drawnStep s) := by
  unfold step scheduledStep
  split
  next e => simp [e] at h
  next e => exact .inl ⟨e, rfl⟩
  next e => simp [e] at h
  next hn _ => exact .inr ⟨hn, rfl⟩

/-- Where the HOST's next statement writes `v` to CMD, its step is that write on the rest of its program (R23, R130). -/
theorem hostStep_storeCmd {s : State} {v : Word} {rest : List Access}
    (hp : s.host.program = storeWord cmdOffset v :: rest) :
    hostStep s = hostCommand v (s.setHost { s.host with program := rest }) := by
  simp only [hostStep, hp]
  rfl

/-- A turn supplied for the HOST, where it can move, is a step of the HOST. -/
theorem drawnStep_host {s : State} {rt : List Agent} (ht : s.draws.turns = .host :: rt)
    (h : Agent.host ∈ enabledAgents s) :
    drawnStep s = hostStep (s.setDraws { s.draws with turns := rt }) := by
  have he : enabled s .host = true := (List.mem_filter.mp h).2
  obtain ⟨hn, hs⟩ := nextTurn_of_supplied ht
  simp [drawnStep, hn, he, hs, agentStep]

/-- The set of enabled agents does not depend on the draws. -/
theorem enabledAgents_setDraws (s : State) (d : Draws) : enabledAgents (s.setDraws d) = enabledAgents s := by
  simp [enabledAgents, List.filter, enabled_setDraws]

/-- The HOST moves next once it has been given the turn (notes/assumptions/1, 2). -/
theorem step_giveHostTurn {s : State} (h : Agent.host ∈ enabledAgents s) : step (giveHostTurn s) = hostStep s := by
  unfold giveHostTurn
  split
  next e =>
    obtain ⟨-, hs⟩ | ⟨hn, -⟩ := step_of_host_mem h
    · exact hs
    · exact absurd e hn
  next hn =>
    rw [← enabledAgents_setDraws s { s.draws with turns := .host :: s.draws.turns }] at h hn
    obtain ⟨e, -⟩ | ⟨-, hs⟩ := step_of_host_mem h
    · exact absurd e hn
    · rw [hs, drawnStep_host rfl h]
      rfl

/-- Settles O6: the HOST moves next, and its statement is the queued write to CMD. -/
theorem placedWordRunsNext : Obligations.PlacedWordRunsNext := by
  intro s w
  have hw : BitVec.ofNat 32 (w % 2 ^ 32) = BitVec.ofNat 32 w := by
    apply BitVec.eq_of_toNat_eq
    simp
  have hp : (queueCommand (BitVec.ofNat 32 w) s).host.program =
    storeWord cmdOffset (BitVec.ofNat 32 w) :: s.host.program := rfl
  have key : step (s.withFetchWord 32 w) = hostCommand (BitVec.ofNat 32 w) s := by
    rw [State.withFetchWord, hw, placeCommand, step_giveHostTurn (host_mem_enabledAgents hp), hostStep_storeCmd hp]
    rfl
  refine ⟨key, fun i hi => ?_⟩
  rw [key, hostCommand, hi]

/-! ### Registers the HOST reads and writes (R21, R22, R24) -/

/-- Settles O41: both offsets reach their register. -/
theorem argWritesOnlyTheRegister : Obligations.ArgWritesOnlyTheRegister := by
  intro s v
  exact ⟨rfl, rfl⟩

/-- A HOST write to a read-only register records `MF(ACCESS)` and nothing else (R75). -/
theorem hostWrite_readOnly {off : Offset} (h : off = 0x00C ∨ off = 0x010) (x : Word) (s : State) :
    hostWrite off 4 x s =
      .next (s.setFaults (if .access ∈ s.faults then s.faults else s.faults ++ [.access])) := by
  rw [← recordFault_eq]
  obtain rfl | rfl := h <;> rfl

/-- STATUS bit by bit (R22). -/
theorem statusWord_getLsbD (s : State) (k : Nat) : (statusWord s).getLsbD k =
    if k < 1 then (BitVec.ofBool s.seq.busy).getLsbD k
    else if k < 4 then s.seq.err.code.getLsbD (k - 1)
    else if k < 6 then s.pulse.ch.code.getLsbD (k - 4)
    else if k < 7 then (BitVec.ofBool s.pulse.active).getLsbD (k - 6)
    else (BitVec.ofBool s.dma.active).getLsbD (k - 7) := by
  have h : (statusWord s).getLsbD k =
      (0#24 ++ BitVec.ofBool s.dma.active ++ BitVec.ofBool s.pulse.active ++ s.pulse.ch.code ++ s.seq.err.code
        ++ BitVec.ofBool s.seq.busy : BitVec (24 + 1 + 1 + 2 + 3 + 1)).getLsbD k := rfl
  rw [h]
  simp only [BitVec.getLsbD_append, Nat.sub_sub]
  grind

/-- STATUS.ERR is the code of the error (R22, R260). -/
theorem statusWord_err (s : State) : (statusWord s).extractLsb' 1 3 = s.seq.err.code := by
  ext i hi
  have h4 : 1 + i < 4 := by omega
  simp [statusWord_getLsbD, h4, BitVec.getLsbD_eq_getElem, hi]

/-- STATUS.CH is the code of the channel's state (R22, R32). -/
theorem statusWord_ch (s : State) : (statusWord s).extractLsb' 4 2 = s.pulse.ch.code := by
  ext i hi
  have h6 : 4 + i < 6 := by omega
  simp [statusWord_getLsbD, h6, BitVec.getLsbD_eq_getElem, hi]

/-- STATUS is 0 above its fields (R22). -/
theorem statusWord_high (s : State) : (statusWord s).extractLsb' 8 24 = 0 := by
  ext i hi
  have h4 : ¬ 8 + i < 4 := by omega
  have h6 : ¬ 8 + i < 6 := by omega
  have h7 : ¬ 8 + i < 7 := by omega
  have h0 : 8 + i - 7 ≠ 0 := by omega
  simp [statusWord_getLsbD, h4, h6, h7, h0]

/-- Settles O43: STATUS field by field, each as the model's code for it. -/
theorem statusFields : Obligations.StatusFields := by
  intro s
  refine ⟨statusWord s, rfl, ?_, ?_, ?_, statusWord_high s, ?_, ?_, fun x => hostWrite_readOnly (.inl rfl) x s⟩
  · rw [statusWord_getLsbD]
    simp
  · rw [statusWord_getLsbD]
    simp
  · rw [statusWord_getLsbD]
    simp
  · rw [statusWord_err]
    cases s.seq.err <;> rfl
  · rw [statusWord_ch]
    cases s.pulse.ch <;> rfl

/-- The register CFG is the shadow in bits 7:0 (R24). -/
theorem cfgWord_low (s : State) : (cfgWord s).extractLsb' 0 8 = s.cfg := by
  ext i hi
  have h32 : i < 32 := by omega
  simp [cfgWord, h32, BitVec.getLsbD_eq_getElem, hi]

/-- It is 0 above (R24). -/
theorem cfgWord_high (s : State) : (cfgWord s).extractLsb' 8 24 = 0 := by
  ext i hi
  simp [cfgWord]

/-- Settles O44: the register is the shadow, zero-extended. -/
theorem cfgRegisterShowsTheShadow : Obligations.CfgRegisterShowsTheShadow := by
  intro s
  exact ⟨cfgWord s, rfl, cfgWord_low s, cfgWord_high s, fun x => hostWrite_readOnly (.inr rfl) x s⟩

/-! ### Reset (R60, R300) -/

/-- Settles O52: at reset nothing plays, nothing runs, the buffer holds no byte and the trace no event. -/
theorem resetMeetsInvariants : Obligations.ResetMeetsInvariants :=
  ⟨⟨nofun, rfl, by decide, by decide⟩, seqInv_of_idle rfl rfl, dmaInv_of_rest rfl, ⟨rfl, rfl⟩, rfl,
    Config.params.ok⟩

/-- Settles O53, field by field. -/
theorem resetState : Obligations.ResetState :=
  ⟨rfl, rfl, rfl, rfl, rfl, rfl, rfl, rfl, fun _ => rfl, rfl, rfl, rfl, rfl, rfl⟩

end Sys2Proof.Machine

namespace Sys2Proof.Machine

/-! ### The target of an access (R71, R72, R73, R75) -/

section Target

variable {p : Params} {off : Offset} {width i : Nat}

theorem target_misaligned (h : width = 0 ∨ off.toNat % width ≠ 0) : target p off width = .bad .width := by
  simp [target, h]

/-- An aligned access passes the first check (R73). -/
theorem target_aligned (h0 : 0 < width) (ha : off.toNat % width = 0) : target p off width =
    if off.toNat < bufBase then if width = 4 then .register off.toNat else .bad .width
    else if bufBase + p.bytesPerLine ≤ off.toNat then .bad .unmapped
    else if width = 1 then .bufByte (off.toNat - bufBase)
    else .bad .width := by
  simp [target, ha, h0.ne']

theorem target_register (ha : off.toNat % 4 = 0) (hr : off.toNat < bufBase) :
    target p off 4 = .register off.toNat := by
  simp [target_aligned (by decide) ha, hr]

theorem target_register_width (h0 : 0 < width) (h4 : width ≠ 4) (ha : off.toNat % width = 0)
    (hr : off.toNat < bufBase) : target p off width = .bad .width := by
  simp [target_aligned h0 ha, hr, h4]

theorem target_pastEnd (h0 : 0 < width) (ha : off.toNat % width = 0) (he : bufBase + p.bytesPerLine ≤ off.toNat) :
    target p off width = .bad .unmapped := by
  have hr : ¬ off.toNat < bufBase := by omega
  simp [target_aligned h0 ha, hr, he]

theorem target_buffer_width (h1 : 1 < width) (ha : off.toNat % width = 0) (hb : bufBase ≤ off.toNat)
    (he : off.toNat < bufBase + p.bytesPerLine) : target p off width = .bad .width := by
  simp [target_aligned (by omega) ha, hb.not_gt, he.not_ge, h1.ne']

theorem target_bufByte (ho : off.toNat = bufBase + i) (hi : i < p.bytesPerLine) :
    target p off 1 = .bufByte i := by
  simp [target_aligned Nat.one_pos (Nat.mod_one _), ho, hi]

end Target

/-! ### Accesses to nothing, to a byte of the row buffer, and to an operand register (R74, R75) -/

/-- An access to nothing records its model fault, and a read of it gives no value (R75, R271). -/
theorem access_bad {s : State} {off : Offset} {width : Nat} {k : ModelFault} (h : target s.params off width = .bad k)
    (v : Word) :
    hostWrite off width v s = .next (s.setFaults (if k ∈ s.faults then s.faults else s.faults ++ [k])) ∧
    hostRead off width s = s.setFaults (if k ∈ s.faults then s.faults else s.faults ++ [k]) := by
  rw [← recordFault_eq, hostWrite, hostRead, h]
  exact ⟨rfl, rfl⟩

/-- The reserved registers are neither written nor read (R71, R75). -/
theorem reservedRegister_faults {o : Nat} (ho : 0x014 ≤ o) (off : Offset) (v : Word) (s : State) :
    writeRegister o v s = .next (recordFault .access s) ∧ readRegister o off s = recordFault .access s := by
  constructor
  · unfold writeRegister
    split
    · omega
    · omega
    · omega
    · rfl
  · unfold readRegister
    split
    · omega
    · omega
    · omega
    · omega
    · rfl

theorem access_reserved {off : Offset} (ha : off.toNat % 4 = 0) (ho : 0x014 ≤ off.toNat) (hr : off.toNat < bufBase)
    (v : Word) (s : State) :
    hostWrite off 4 v s = .next (s.setFaults (if .access ∈ s.faults then s.faults else s.faults ++ [.access])) ∧
    hostRead off 4 s = s.setFaults (if .access ∈ s.faults then s.faults else s.faults ++ [.access]) := by
  rw [← recordFault_eq, hostWrite, hostRead, target_register ha hr]
  exact reservedRegister_faults ho off v s

theorem hostWrite_bufByte {s : State} {off : Offset} {i : Nat} (ho : off.toNat = bufBase + i)
    (hi : i < s.params.bytesPerLine) (v : Word) :
    hostWrite off 1 v s = .next (writeBuf i (v.extractLsb' 0 8) s) := by
  rw [hostWrite, target_bufByte ho hi]

theorem hostRead_bufByte {s : State} {off : Offset} {i : Nat} (ho : off.toNat = bufBase + i)
    (hi : i < s.params.bytesPerLine) : hostRead off 1 s = readBuf i off s := by
  rw [hostRead, target_bufByte ho hi]

theorem readBuf_written {s : State} {i : Nat} {b : Byte} (h : Memory.read s.buf i = some b) (off : Offset) :
    readBuf i off s = observe off 1 (b.zeroExtend 32) s := by
  rw [readBuf, h]

theorem hostRead_written {s : State} {off : Offset} {i : Nat} {b : Byte} (h : Memory.read s.buf i = some b)
    (ho : off.toNat = bufBase + i) (hi : i < s.params.bytesPerLine) :
    hostRead off 1 s = observe off 1 (b.zeroExtend 32) s := by
  rw [hostRead_bufByte ho hi, readBuf_written h]

/-- The HOST sees a drawn value where nothing has written the byte (R35, R74). -/
theorem readBuf_unwritten {s : State} {i : Nat} (h : Memory.read s.buf i = none) (off : Offset) :
    readBuf i off s = observe off 1 ((nextByte s).zeroExtend 32) (spendByte s) := by
  rw [readBuf, h]

theorem readArg_written {s : State} {a : ArgReg} (h : argWritten s.regs a = true) (off : Offset) :
    readArg a off s = observe off 4 (argValue s.regs a) s := by
  simp [readArg, h]

theorem readArg_supplied {s : State} {a : ArgReg} {x : Word} {rest : List Word} (h : argWritten s.regs a = false)
    (hw : s.draws.words = x :: rest) (off : Offset) :
    readArg a off s = observe off 4 x (s.setDraws { s.draws with words := rest }) := by
  obtain ⟨hn, hs⟩ := nextWord_of_supplied hw
  simp [readArg, h, hn, hs]

/-! ### The obligations about the host window -/

/-- Settles O40: the checks of the target in their order, then the access rights of the registers. -/
theorem badAccessesOnlyFault : Obligations.BadAccessesOnlyFault := by
  intro s off width v faulted lineEnd
  exact ⟨fun h => access_bad (target_misaligned h) v,
    fun h0 ha he => access_bad (target_pastEnd h0 ha he) v,
    fun h1 ha hb he => access_bad (target_buffer_width h1 ha hb he) v,
    fun h0 h4 ha hr => access_bad (target_register_width h0 h4 ha hr) v,
    fun ha ho hr => access_reserved ha ho hr v s,
    recordFault_eq .access s, hostWrite_readOnly (.inl rfl) v s, hostWrite_readOnly (.inr rfl) v s⟩

/-- Settles O42: an idle ENGINE stores the byte, which then reads back; a busy one records the fault. -/
theorem bufferWriteReadsBack : Obligations.BufferWriteReadsBack := by
  intro s off i v ho hi
  rw [hostWrite_bufByte ho hi]
  obtain ⟨hb, e⟩ | ⟨hb, e⟩ := writeBuf_cases i (v.extractLsb' 0 8) s <;> rw [e, hb]
  · exact ⟨nofun, fun _ => congrArg _ (recordFault_eq .busyWrite s)⟩
  · have same : Memory.read (s.setBuf (Memory.write s.buf i (v.extractLsb' 0 8))).buf i = some (v.extractLsb' 0 8) :=
      Memory.read_write_same s.buf i _
    exact ⟨fun _ => ⟨_, rfl, rfl, same, fun j hj => Memory.read_write_other _ _ hj, hostRead_written same ho hi⟩,
      nofun⟩

/-- What a HOST read can do (R74, R77): a value is seen, with a draw taken or none, or a model fault is recorded. -/
theorem hostRead_cases (off : Offset) (width : Nat) (s : State) :
    (∃ o d, hostRead off width s = (s.setDraws d).setHost { s.host with seen := s.host.seen ++ [o] }) ∨
    (∃ k, hostRead off width s = recordFault k s) := by
  have arg (a : ArgReg) : ∃ o d, readArg a off s =
      (s.setDraws d).setHost { s.host with seen := s.host.seen ++ [o] } := by
    unfold readArg
    split
    · exact ⟨_, s.draws, rfl⟩
    · exact ⟨_, _, rfl⟩
  unfold hostRead
  split
  case h_1 =>
    unfold readRegister
    split
    · exact .inl (arg .arg0)
    · exact .inl (arg .arg1)
    · exact .inl ⟨_, s.draws, rfl⟩
    · exact .inl ⟨_, s.draws, rfl⟩
    · exact .inr ⟨_, rfl⟩
  case h_2 i _ =>
    cases hb : Memory.read s.buf i with
    | some b => exact .inl ⟨_, s.draws, readBuf_written hb off⟩
    | none => exact .inl ⟨_, _, readBuf_unwritten hb off⟩
  case h_3 k _ => exact .inr ⟨k, rfl⟩

/-- Settles O46: a value seen is added to what the HOST has seen, a fault to the model faults. -/
theorem readsHaveNoSideEffect : Obligations.ReadsHaveNoSideEffect := by
  intro s off width
  obtain ⟨o, d, e⟩ | ⟨k, e⟩ := hostRead_cases off width s
  · exact ⟨_, s.faults, d, e⟩
  · exact ⟨s.host.seen, _, s.draws, e.trans (recordFault_eq k s)⟩

/-- Settles O45: the written value is seen, or the supplied draw. -/
theorem hostReadValues : Obligations.HostReadValues := by
  intro s off i ho hi
  refine ⟨fun h => readArg_written (a := .arg0) h 0x004, fun h => readArg_written (a := .arg1) h 0x008,
    fun _ _ h hw => readArg_supplied (a := .arg0) h hw 0x004, fun _ _ h hw => readArg_supplied (a := .arg1) h hw 0x008,
    fun _ hb => hostRead_written hb ho hi, fun d rest hb hd => ?_⟩
  obtain ⟨hn, hs⟩ := nextByte_of_supplied hd
  rw [hostRead_bufByte ho hi, readBuf_unwritten hb, hn, hs]
  rfl

/-- Settles O5: the HOST moves, alone or by its turn, and the word it writes to CMD is issued by `exec`. -/
theorem stepRunsTheDecodedCommand : Obligations.StepRunsTheDecodedCommand := by
  intro s v i rest hp hv
  have mem : Agent.host ∈ enabledAgents s := host_mem_enabledAgents hp
  have command (t : State) : hostCommand v t = exec i t := by rw [hostCommand, hv]
  obtain ⟨he, hs⟩ | ⟨he, hs⟩ := step_of_host_mem mem
  · refine ⟨fun _ => ?_, fun hn => absurd he hn⟩
    rw [hs, hostStep_storeCmd hp, command]
  · refine ⟨fun h => absurd h he, fun _ ht => ?_⟩
    have enabledHost : enabled s .host = true := (List.mem_filter.mp mem).2
    have hpSpent : (spendTurn s).host.program = storeWord cmdOffset v :: rest := hp
    rw [hs, drawnStep, ht, if_pos enabledHost, agentStep, hostStep_storeCmd hpSpent, command]
    rfl

end Sys2Proof.Machine

namespace Sys2Proof

/-! ### The encoding of commands (R100 to R109) -/

/-- Format C, bit by bit: `OP` in bits `[3:0]`, `W` in bit 8, every other bit 0 (R100). -/
theorem getLsbD_encodeFields (op : Nibble) (w : Bool) (k : Nat) :
    (encodeFields op w).getLsbD k = (op.getLsbD k || (w && decide (k = 8))) := by
  have opBit : (op.zeroExtend 32).getLsbD k = op.getLsbD k := by
    rw [BitVec.getLsbD_setWidth]
    by_cases hk : k < 32
    · simp [hk]
    · simp [hk, BitVec.getLsbD_of_ge op k (by omega)]
  have waitBit : (if w then 1#32 <<< 8 else 0#32).getLsbD k = (w && decide (k = 8)) := by
    cases w with
    | false => simp
    | true => simp [← BitVec.twoPow_eq, BitVec.getLsbD_twoPow, eq_comm]
  rw [encodeFields, BitVec.getLsbD_or, opBit, waitBit]

/-- The reserved bits of R100, bit by bit. -/
theorem reservedClear_iff (v : Word) :
    reservedClear v = true ↔ ∀ k, 4 ≤ k → k ≠ 8 → v.getLsbD k = false := by
  rw [reservedClear, Bool.and_eq_true, beq_iff_eq, beq_iff_eq]
  constructor
  · rintro ⟨low, high⟩ k h4 h8
    by_cases hk : k < 8
    · simpa [show k - 4 < 4 by omega, show 4 + (k - 4) = k by omega] using congrArg (·.getLsbD (k - 4)) low
    · by_cases hw : k < 32
      · simpa [show k - 9 < 23 by omega, show 9 + (k - 9) = k by omega] using congrArg (·.getLsbD (k - 9)) high
      · exact v.getLsbD_of_ge k (by omega)
  · intro h
    constructor <;> refine BitVec.eq_of_getLsbD_eq fun k hk => ?_
    · simpa [hk] using h (4 + k) (by omega) (by omega)
    · simpa [hk] using h (9 + k) (by omega) (by omega)

/-- The fields of a word with its reserved bits 0 determine it, and an encoded word has the fields it is made from. -/
theorem eq_encodeFields_iff (v : Word) (op : Nibble) (w : Bool) :
    v = encodeFields op w ↔ reservedClear v = true ∧ opField v = op ∧ waitField v = w := by
  constructor
  · rintro rfl
    refine ⟨(reservedClear_iff _).mpr fun k h4 h8 => ?_, BitVec.eq_of_getLsbD_eq fun k hk => ?_, ?_⟩
    · simp [getLsbD_encodeFields, h8, h4]
    · simp [opField, getLsbD_encodeFields, hk, show k ≠ 8 by omega]
    · rw [waitField, getLsbD_encodeFields, BitVec.getLsbD_of_ge op 8 (by omega)]
      simp
  · rintro ⟨hr, rfl, rfl⟩
    refine BitVec.eq_of_getLsbD_eq fun k _ => ?_
    rw [getLsbD_encodeFields]
    by_cases h4 : k < 4
    · simp [opField, h4, show k ≠ 8 by omega]
    · by_cases h8 : k = 8
      · simp [opField, waitField, h8]
      · simp [opField, (reservedClear_iff v).mp hr k (by omega) h8, h4, h8]

@[simp] theorem withoutWait_eq_ok_iff (w : Bool) (i j : Instr) : withoutWait w i = .ok j ↔ w = false ∧ i = j := by
  cases w <;> simp [withoutWait]

/-- The opcode map is read one way by `instrOf`, the other by `opOf` and `waitOf` (R102). -/
theorem instrOf_eq_ok_iff (op : Nibble) (w : Bool) (i : Instr) :
    instrOf op w = .ok i ↔ op = opOf i ∧ w = waitOf i := by
  constructor
  · intro h
    unfold instrOf at h
    split at h
    case h_7 hop =>
      cases h
      exact ⟨BitVec.eq_of_toNat_eq hop, rfl⟩
    case h_9 => cases h
    all_goals
      rename_i hop
      obtain ⟨rfl, rfl⟩ := (withoutWait_eq_ok_iff _ _ _).mp h
      exact ⟨BitVec.eq_of_toNat_eq hop, rfl⟩
  · rintro ⟨rfl, rfl⟩
    cases i <;> rfl

/-- A command decodes from its own word and from no other (R100, R102). -/
theorem decodeWord_eq_ok_iff (v : Word) (i : Instr) : decodeWord v = .ok i ↔ v = encode i := by
  rw [encode, eq_encodeFields_iff, ← instrOf_eq_ok_iff, decodeWord]
  split
  case isTrue hr => simp [hr]
  case isFalse hr => simp [hr]

/-- Four bytes are a word's exactly when they are its slices, the lowest first (R78). -/
theorem wordOfBytes_eq_iff (b0 b1 b2 b3 : Byte) (v : Word) :
    wordOfBytes b0 b1 b2 b3 = v ↔
      b0 = v.extractLsb' 0 8 ∧ b1 = v.extractLsb' 8 8 ∧ b2 = v.extractLsb' 16 8 ∧ b3 = v.extractLsb' 24 8 := by
  constructor
  · rintro rfl
    have low {start : Nat} (h : start + 8 ≤ 8 + 8) :
        (wordOfBytes b0 b1 b2 b3).extractLsb' start 8 = (b1 ++ b0).extractLsb' start 8 :=
      BitVec.extractLsb'_append_eq_of_add_le h
    have high {start : Nat} (h : 8 + 8 ≤ start) :
        (wordOfBytes b0 b1 b2 b3).extractLsb' start 8 = (b3 ++ b2).extractLsb' (start - (8 + 8)) 8 :=
      BitVec.extractLsb'_append_eq_of_le h
    rw [low (by decide), low (by decide), high (by decide), high (by decide)]
    exact ⟨BitVec.extractLsb'_append_eq_right.symm, BitVec.extractLsb'_append_eq_left.symm,
      BitVec.extractLsb'_append_eq_right.symm, BitVec.extractLsb'_append_eq_left.symm⟩
  · rintro ⟨rfl, rfl, rfl, rfl⟩
    rw [wordOfBytes, BitVec.extractLsb'_append_extractLsb'_eq_extractLsb' (show 24 = 16 + 8 from rfl),
      BitVec.extractLsb'_append_extractLsb'_eq_extractLsb' (show 8 = 0 + 8 from rfl)]
    exact BitVec.extractLsb'_append_extractLsb' (w := 16) (len := 16)

/-- Bytes decode to a command and a rest exactly when they are the command's bytes before that rest (R78, R106). -/
theorem decodeBytes_eq_ok_iff (bytes rest : List Byte) (i : Instr) :
    decodeBytes bytes = .ok (i, rest) ↔ bytes = encodeBytes i ++ rest := by
  have cons (b0 b1 b2 b3 : Byte) (tail : List Byte) : decodeBytes (b0 :: b1 :: b2 :: b3 :: tail) = .ok (i, rest) ↔
      decodeWord (wordOfBytes b0 b1 b2 b3) = .ok i ∧ tail = rest := by
    rw [decodeBytes]
    cases decodeWord (wordOfBytes b0 b1 b2 b3) <;> simp
  match bytes with
  | b0 :: b1 :: b2 :: b3 :: tail =>
    rw [cons, decodeWord_eq_ok_iff, wordOfBytes_eq_iff]
    simp [encodeBytes, and_assoc]
  | [] | [_] | [_, _] | [_, _, _] => simp [decodeBytes, encodeBytes]

/-- Settles O4: words by `decodeWord_eq_ok_iff`, bytes by `decodeBytes_eq_ok_iff`, read in both directions. -/
theorem encodeDecodeRoundTrip : Obligations.EncodeDecodeRoundTrip := fun i =>
  ⟨fun v => decodeWord_eq_ok_iff v i, fun rest => (decodeBytes_eq_ok_iff _ rest i).mpr rfl,
    fun bytes rest => (decodeBytes_eq_ok_iff bytes rest i).mp⟩

/-- The word that matches a command's row under its mask is the command's own; PULSE's mask leaves out bit 8,
which is its `W` (R109). -/
theorem and_tableMask_eq_iff (v : Word) (i : Instr) :
    v &&& tableMask i = tableMatch i ∧ (∀ w, i = .pulse w → w = v.getLsbD 8) ↔ v = encode i := by
  cases i with
  | pulse w =>
    constructor
    · rintro ⟨masked, wait⟩
      calc v = (v &&& 0xFFFFFEFF) ||| (v &&& BitVec.twoPow 32 8) := by
            rw [← BitVec.and_or_distrib_left,
              show (0xFFFFFEFF : Word) ||| BitVec.twoPow 32 8 = BitVec.allOnes 32 from rfl, BitVec.and_allOnes]
        _ = 0x00000007 ||| if w then BitVec.twoPow 32 8 else 0 := by
            rw [BitVec.and_twoPow, ← wait w rfl]
            exact congrArg (· ||| _) masked
        _ = encode (.pulse w) := by cases w <;> rfl
    · rintro rfl
      obtain ⟨_, masked, _⟩ := Laws.RowWord.pulse w
      refine ⟨masked, ?_⟩
      rintro _ ⟨⟩
      cases w <;> rfl
  | powerOn | powerOff | frameStart | frameEnd | outputRow | skip | reclaim =>
    have full : v &&& 0xFFFFFFFF = v := BitVec.and_allOnes
    exact (and_iff_left nofun).trans (Eq.congr_left full)

/-- Settles O2: the words that match the row and the words that decode to the command are both `encode i` alone. -/
theorem decodeMatchesTable : Obligations.DecodeMatchesTable := fun v i =>
  (decodeWord_eq_ok_iff v i).trans (and_tableMask_eq_iff v i).symm

theorem exists_error_iff_isOk_eq_false {ε α : Type} (r : Except ε α) :
    (∃ e, r = .error e) ↔ r.isOk = false := by
  cases r <;> simp [Except.isOk, Except.toBool]

/-- R104 on the two fields: an opcode outside the map, or the wait flag with an opcode other than PULSE's. -/
theorem instrOf_isOk_eq_false_iff : ∀ (op : Nibble) (w : Bool),
    (instrOf op w).isOk = false ↔ op = 0 ∨ 9 ≤ op ∨ (w = true ∧ op ≠ 7) := by decide

/-- Settles O3: with the reserved bits 0 the two fields decide, and with one of them 1 the word is rejected. -/
theorem illegalWordsRejected : Obligations.IllegalWordsRejected := by
  intro v
  rw [exists_error_iff_isOk_eq_false, decodeWord]
  split
  case isTrue clear =>
    obtain ⟨low, high⟩ : v.extractLsb' 4 4 = 0 ∧ v.extractLsb' 9 23 = 0 := by simpa [reservedClear] using clear
    rw [instrOf_isOk_eq_false_iff, opField, waitField]
    simp [low, high]
  case isFalse notClear =>
    have reserved : v.extractLsb' 4 4 ≠ 0 ∨ v.extractLsb' 9 23 ≠ 0 := by
      simpa [reservedClear, Classical.or_iff_not_imp_left] using notClear
    exact iff_of_true rfl (by tauto)

/-- Settles O1: the nine words are their commands' encodings; the six are evaluated. -/
theorem writtenWordsDecode : Obligations.WrittenWordsDecode := by
  simp only [Obligations.WrittenWordsDecode, decodeWord_eq_ok_iff]
  decide

end Sys2Proof

namespace Sys2Proof.Machine

/-! ### The issue of a command (R103, R130, R131, R132) -/

/-- A command's meaning is its issue, the command being present where it is well formed (R105). -/
theorem exec_eq_issue_wf (i : Instr) (s : State) : exec i s = .next (issue i (i.wf s.params) s) := by
  cases i <;> rfl

/-- A 4-byte write at offset 0 is a write to CMD (R23, R71). -/
theorem hostWrite_cmd (v : Word) (s : State) : hostWrite 0x000 4 v s = hostCommand v s := rfl

theorem hostCommand_of_ok {v : Word} {i : Instr} (hv : decodeWord v = .ok i) (s : State) :
    hostCommand v s = exec i s := by
  rw [hostCommand, hv]

theorem hostCommand_of_error {v : Word} {e : DecodeError} (hv : decodeWord v = .error e) (s : State) :
    hostCommand v s = .next (issueIllegal v s) := by
  rw [hostCommand, hv]

theorem exec_busy {s : State} (hb : s.seq.busy = true) (i : Instr) : exec i s = .next (recordFault .cmdBusy s) := by
  rw [exec_eq_issue_wf, issue, if_pos hb]

theorem hostCommand_busy {s : State} (hb : s.seq.busy = true) (v : Word) :
    hostCommand v s = .next (recordFault .cmdBusy s) := by
  cases hv : decodeWord v with
  | ok i => rw [hostCommand_of_ok hv, exec_busy hb]
  | error e => rw [hostCommand_of_error hv, issueIllegal, if_pos hb]

/-- Latching a command leaves the operand registers to be read (R131). -/
@[simp] theorem latchCommand_regs (op : Nibble) (w : Bool) (s : State) : (latchCommand op w s).regs = s.regs := rfl

/-- An illegal command, field by field (R132). -/
theorem endIllegal_latchCommand (op : Nibble) (w : Bool) (s : State) : endIllegal (latchCommand op w s) =
    { s with
      seq := { s.seq with op := op, w := w, err := .illegalCommand }
      trace := s.trace ++ [.cmd op w, .done .illegalCommand] } := by
  rw [List.append_cons]
  rfl

/-- A latched command that stops at an unwritten operand register, field by field (R131, R271). -/
theorem recordFault_latchCommand (k : ModelFault) (op : Nibble) (w : Bool) (s : State) :
    recordFault k (latchCommand op w s) =
    { s with
      seq := { s.seq with op := op, w := w, err := .none }
      faults := if k ∈ s.faults then s.faults else s.faults ++ [k]
      trace := s.trace ++ [.cmd op w] } :=
  recordFault_eq k _

section Idle

variable {s : State} (hb : s.seq.busy = false)
include hb

theorem hostCommand_illegal {v : Word} {e : DecodeError} (hv : decodeWord v = .error e) :
    hostCommand v s = .next (endIllegal (latchCommand (opField v) (waitField v) s)) := by
  rw [hostCommand_of_error hv, issueIllegal, hb, if_neg Bool.false_ne_true]

theorem exec_absent {i : Instr} (hp : i.wf s.params = false) :
    exec i s = .next (endIllegal (latchCommand (opOf i) (waitOf i) s)) := by
  simp [exec_eq_issue_wf, issue, hb, hp]

theorem exec_unwritten {i : Instr} (hp : i.wf s.params = true) (hu : someUnwritten (argReads i) s.regs = true) :
    exec i s = .next (recordFault .argUnwritten (latchCommand (opOf i) (waitOf i) s)) := by
  simp [exec_eq_issue_wf, issue, hb, hp, hu]

theorem exec_outOfRange {i : Instr} (hp : i.wf s.params = true) (hu : someUnwritten (argReads i) s.regs = false)
    (ho : someOutOfRange (argReads i) s.regs = true) :
    exec i s = .next (endIllegal (latchCommand (opOf i) (waitOf i) s)) := by
  simp [exec_eq_issue_wf, issue, hb, hp, hu, ho]

end Idle

/-- OUTPUT_ROW reads ARG0 alone (R103, R205). -/
theorem someUnwritten_outputRow (r : Regs) : someUnwritten (argReads .outputRow) r = true ↔ r.argw0 = false := by
  simp [someUnwritten, argReads, argWritten]

theorem someOutOfRange_outputRow (r : Regs) :
    someOutOfRange (argReads .outputRow) r = true ↔ r.arg0.extractLsb' 16 16 ≠ 0 := by
  simp [someOutOfRange, argReads, argValue, operandWf]

/-- PULSE reads ARG0 and ARG1 (R103, R185). -/
theorem someUnwritten_pulse (w : Bool) (r : Regs) :
    someUnwritten (argReads (.pulse w)) r = true ↔ r.argw0 = false ∨ r.argw1 = false := by
  simp [someUnwritten, argReads, argWritten]

theorem someOutOfRange_pulse (w : Bool) (r : Regs) :
    someOutOfRange (argReads (.pulse w)) r = true ↔ r.arg0.extractLsb' 16 16 ≠ 0 ∨ r.arg1.extractLsb' 16 16 ≠ 0 := by
  simp [someOutOfRange, argReads, argValue, operandWf]

/-- Settles O7: the busy clauses by the fault recorded, the others by what the word decodes to. -/
theorem commandWriteWhileBusyFaults : Obligations.CommandWriteWhileBusyFaults := by
  intro s v
  rw [hostWrite_cmd, ← recordFault_eq]
  refine ⟨fun hb => hostCommand_busy hb v, fun _ i hi => hostCommand_of_ok hi s, fun hb e he => ?_, exec_busy⟩
  exact ⟨_, hostCommand_illegal hb he, rfl, hb⟩

/-- Settles O8: each ground of R104 ends by `endIllegal` on the latched command. -/
theorem illegalCommandOnlyMarks : Obligations.IllegalCommandOnlyMarks := by
  intro s hb
  refine ⟨fun v e hv => ?word, fun hp => ?absent, fun h0 hr => ?outputRow, fun w h0 h1 hr => ?pulse⟩
  case word => rw [hostWrite_cmd, hostCommand_illegal hb hv, endIllegal_latchCommand, opField, waitField]
  case absent =>
    rw [exec_absent (i := .reclaim) hb hp, endIllegal_latchCommand]
    rfl
  case outputRow =>
    have written : someUnwritten (argReads .outputRow) s.regs = false := by
      simp [← Bool.not_eq_true, someUnwritten_outputRow, h0]
    rw [exec_outOfRange hb rfl written ((someOutOfRange_outputRow _).mpr hr),
      endIllegal_latchCommand]
    rfl
  case pulse =>
    have written : someUnwritten (argReads (.pulse w)) s.regs = false := by
      simp [← Bool.not_eq_true, someUnwritten_pulse, h0, h1]
    rw [exec_outOfRange hb rfl written ((someOutOfRange_pulse w _).mpr hr), endIllegal_latchCommand]
    rfl

/-- `phase_issue` moves the phase for POWER_ON and POWER_OFF alone (R245). -/
theorem phaseIssue_eq (i : Instr) (ph : Phase) :
    phaseIssue i ph = if i = .powerOn then .poweringUp else if i = .powerOff then .poweringDown else ph := by
  cases i <;> rfl

/-- Settles O9: with no operand to read nothing stands against the issue. -/
theorem operandlessCommandsIssue : Obligations.OperandlessCommandsIssue := by
  intro s i hb hi
  obtain ⟨reads, wait, present⟩ :
      argReads i = [] ∧ waitOf i = false ∧ (i ≠ .reclaim ∨ s.params.reclaimPresent = true) := by
    obtain rfl | rfl | rfl | rfl | rfl | ⟨rfl, hp⟩ := hi
    case inr.inr.inr.inr.inr => exact ⟨rfl, rfl, .inr hp⟩
    all_goals exact ⟨rfl, rfl, .inl nofun⟩
  have written : someUnwritten (argReads i) s.regs = false := by rw [reads]; rfl
  have inRange : someOutOfRange (argReads i) s.regs = false := by rw [reads]; rfl
  rw [exec_begun hb present written inRange, begun_eq s reads, wait, phaseIssue_eq]

/-- Settles O10: the registers the command reads are written and in range, or one of them was never written. -/
theorem operandCommandsIssue : Obligations.OperandCommandsIssue := by
  intro s hb
  refine ⟨fun h0 hr => ?outputRow, fun w h0 h1 hr0 hr1 => ?pulse, fun h0 => ?outputRowUnwritten,
    fun w hu => ?pulseUnwritten⟩
  case outputRow =>
    have written : someUnwritten (argReads .outputRow) s.regs = false := by
      simp [← Bool.not_eq_true, someUnwritten_outputRow, h0]
    have inRange : someOutOfRange (argReads .outputRow) s.regs = false := by
      simp [← Bool.not_eq_true, someOutOfRange_outputRow, hr]
    rw [exec_begun (i := .outputRow) hb (.inl nofun) written inRange]
    rfl
  case pulse =>
    have written : someUnwritten (argReads (.pulse w)) s.regs = false := by
      simp [← Bool.not_eq_true, someUnwritten_pulse, h0, h1]
    have inRange : someOutOfRange (argReads (.pulse w)) s.regs = false := by
      simp [← Bool.not_eq_true, someOutOfRange_pulse, hr0, hr1]
    rw [exec_begun (i := .pulse w) hb (.inl nofun) written inRange]
    rfl
  case outputRowUnwritten =>
    rw [exec_unwritten hb rfl ((someUnwritten_outputRow _).mpr h0), recordFault_latchCommand]
    rfl
  case pulseUnwritten =>
    rw [exec_unwritten hb rfl ((someUnwritten_pulse w _).mpr hu), recordFault_latchCommand]
    rfl

/-- Settles O11: a command's meaning is its issue, whose frame is `issue_frame`. -/
theorem issueLeavesTheRest : Obligations.IssueLeavesTheRest := by
  intro i s t h
  obtain ⟨q, ph, fs, tr, e⟩ := issue_frame i (i.wf s.params) s
  rw [exec_eq_issue_wf, e] at h
  obtain rfl := Host.Outcome.next.inj h
  exact ⟨rfl, rfl, rfl, rfl, fun _ => rfl, rfl, rfl, rfl, rfl, rfl⟩

/-! ### The end of a uop (R134 to R138) -/

/-- Settles O28: `delayUop_eq`, `delayEvents` being the one `Wait(n)` or nothing. -/
theorem delayOnlyWaits : Obligations.DelayOnlyWaits := fun n s => congrArg UopEnd.done (delayUop_eq n s)

/-- SEQ's step, given how the uop at `upc` ends: the converse of `seqStep_ends` (R134, R135). -/
theorem seqStep_of_ends {s : State} {i : Instr} {u : Uop} {r : UopEnd} (hi : currentCommand s = some i)
    (hu : currentUop s = some u) (hr : Ends u s r) :
    seqStep s = .next (endUop i (uopsOf s.params s.seq.a0 s.seq.a1 i).length r) := by
  simp only [seqStep, hi, hu]
  obtain ⟨hh, rfl⟩ | ⟨hh, hr⟩ := hr
  · simp only [hh]
  · cases hold : s.seq.hold with
    | none => exact absurd hold hh
    | pulseDone | dmaDone => simp only [hr]

/-- Settles O38: the two ends of a uop other than an error, each as `endUop` follows it. -/
theorem doneAdvancesOrCompletes : Obligations.DoneAdvancesOrCompletes := by
  intro i u s r hi hu hh
  refine ⟨fun hr hq => ?done, fun h hr hq => ?held⟩
  case done =>
    rw [seqStep_of_ends hi hu (.inl ⟨hh, hr.symm⟩), ← hq]
    obtain ⟨hn, e⟩ | ⟨hn, e⟩ := endUop_done_cases i (uopsOf s.params r.seq.a0 r.seq.a1 i).length r
    · rw [e, if_pos hn]
      rfl
    · rw [e, if_neg hn]
      rfl
  case held =>
    rw [seqStep_of_ends hi hu (.inl ⟨hh, hr.symm⟩), ← hq]
    rfl

/-- SEQ has no enabled step while no command runs (R134). -/
theorem seq_disabled_of_idle {s : State} (hb : s.seq.busy = false) : enabled s .seq = false := by
  simp [enabled, hb]

/-- Settles O39: an error, first run or resume, is followed by `raiseErr`, which leaves SEQ idle. -/
theorem errorEndsTheCommand : Obligations.ErrorEndsTheCommand := by
  intro i u e s r hi hu hr
  have ends : Ends u s (.error e r) := hr.imp_left (And.imp_right Eq.symm)
  exact ⟨_, seqStep_of_ends hi hu ends, rfl, seq_disabled_of_idle rfl⟩

/-! ### Final states (R142, R301) -/

theorem final_iff (s : State) : s.final = true ↔
    s.host.program = [] ∧ s.seq.busy = false ∧ s.pulse.active = false ∧ s.dma.active = false ∧ s.faults = [] := by
  simp [State.final, State.safe, and_assoc]

/-- In a final state no agent can move, and the idle ENGINE waits (notes/assumptions/8). -/
theorem step_final {s : State} (h : s.final = true) : step s = .next s := by
  obtain ⟨hp, hb, ha, hd, -⟩ := (final_iff s).mp h
  have noAgent : enabledAgents s = [] := by
    simp [enabledAgents, enabled, hostEnabled, hp, hb, ha, hd]
  simp [step, scheduledStep, noAgent, noAgentStep, hb]

/-- Settles O59, by induction on the number of steps. -/
theorem finalStatesRest : Obligations.FinalStatesRest := by
  intro s h n
  induction n with
  | zero => exact (runs_zero s s).mpr rfl
  | succ n ih => exact (runs_succ n s s).mpr ⟨s, step_final h, ih⟩

end Sys2Proof.Machine

namespace Sys2Proof.Machine

/-! ### The configuration shift (R150 to R155) -/

theorem Field.bit_lt (f : Field) : f.bit < 8 := by
  cases f <;> decide

/-- Each field has a bit of its own (R25). -/
theorem Field.bit_inj {f g : Field} : f.bit = g.bit ↔ f = g := by
  cases f <;> cases g <;> simp [Field.bit]

/-- The mask of a field has the field's bit and no other. -/
theorem getLsbD_fieldMask (f : Field) (k : Nat) : (1#8 <<< f.bit).getLsbD k = decide (f.bit = k) := by
  rw [← BitVec.twoPow_eq, BitVec.getLsbD_twoPow]
  simp [f.bit_lt]

/-- A write of a field, bit by bit: the field's own bit takes the value, each other keeps its own. -/
theorem getLsbD_putField (f : Field) (b : Bool) (c : Byte) (k : Nat) :
    (putField f b c).getLsbD k = if k = f.bit then b else c.getLsbD k := by
  by_cases hk : k = f.bit
  · subst hk
    cases b <;> simp [putField, getLsbD_fieldMask, -BitVec.getLsbD_shiftLeft]
  · have other : (1#8 <<< f.bit).getLsbD k = false := by
      rw [getLsbD_fieldMask, decide_eq_false (Ne.symm hk)]
    rw [if_neg hk]
    cases b with
    | true => simp only [putField, if_true, BitVec.getLsbD_or, other, Bool.or_false]
    | false =>
      rw [putField, if_neg Bool.false_ne_true, BitVec.getLsbD_and, BitVec.getLsbD_not, other, Bool.not_false,
        Bool.and_true, Bool.and_eq_left_iff_imp]
      exact fun h => decide_eq_true (BitVec.lt_of_getLsbD h)

@[simp] theorem getField_putField_same (f : Field) (b : Bool) (c : Byte) : getField f (putField f b c) = b := by
  rw [getField, getLsbD_putField, if_pos rfl]

theorem getField_putField_of_ne {f g : Field} (h : g ≠ f) (b : Bool) (c : Byte) :
    getField g (putField f b c) = getField g c := by
  rw [getField, getLsbD_putField, if_neg (mt Field.bit_inj.mp h), getField]

/-- Writing the value that a field has changes nothing. -/
theorem putField_getField (f : Field) (c : Byte) : putField f (getField f c) c = c := by
  refine BitVec.eq_of_getLsbD_eq fun k _ => ?_
  rw [getLsbD_putField]
  split
  next hk => rw [hk, getField]
  next => rfl

/-- Settles O25: SETF is `putField` on CFG, whose bits `getLsbD_putField` gives. -/
theorem setfChangesOneField : Obligations.SetfChangesOneField := by
  intro f b s
  refine ⟨putField f b s.cfg, rfl, getField_putField_same f b s.cfg, fun g hg => getField_putField_of_ne hg b s.cfg,
    ?sameValue, ?rulesExample⟩
  case sameValue =>
    rintro rfl
    exact putField_getField f s.cfg
  case rulesExample =>
    rintro hc rfl rfl
    rw [hc]
    decide

/-- SHIFT as a uop: done in one step, as `shiftUop_eq` says. -/
theorem runUop_shift (s : State) : runUop .shift s = .done
    { s with trace := s.trace ++ shiftEvents s.cfg, lines := restLines s.cfg, panel := panelHolding s.cfg } :=
  congrArg UopEnd.done (shiftUop_eq s)

/-- R154: two strobe levels and three events for each of the eight bits. -/
theorem shiftEvents_length (v : Byte) : (shiftEvents v).length = 26 := rfl

/-- R152: the bits go out in the order of the fields, from `output_enable` to `latch_enable`. -/
theorem fields_eq_shiftOrder (v : Byte) :
    [Field.outputEnable, .mode, .scanDirection, .stv, .negPowerEnable, .posPowerEnable, .powerDisable,
      .latchEnable].map (getField · v) = shiftOrder v := rfl

/-- Settles O26: the events are `shiftEvents`, the levels at rest `restLines`. -/
theorem shiftSendsTheRegister : Obligations.ShiftSendsTheRegister := fun s =>
  ⟨_, shiftEvents s.cfg, runUop_shift s, shiftEvents_length s.cfg, rfl, fields_eq_shiftOrder s.cfg, rfl⟩

/-- Settles O27: SHIFT itself drives clock and strobe low before each rise, so no edge depends on the levels before it,
and the eight samples leave nothing of the old shift register (`shiftUop_eq`). -/
theorem shiftReachesThePanel : Obligations.ShiftReachesThePanel := fun s =>
  ⟨_, runUop_shift s, rfl, rfl, rfl⟩

end Sys2Proof.Machine

namespace Sys2Proof.Machine

/-! ### Waveforms and the pulse uops (R171 to R186) -/

/-- R171's two branches. -/
theorem waveform_of_pos {h : Half} (hp : 0 < h) (l : Half) : waveform h l = (h, l) := if_pos hp

@[simp] theorem waveform_zero_left (l : Half) : waveform 0 l = (l, 0) := rfl

/-- Settles O29: the two branches of `waveform`, which agree at `(0, 0)`. -/
theorem waveformShape : Obligations.WaveformShape := by
  intro h l
  refine ⟨fun hp => waveform_of_pos hp l, ?_, fun hp => ?_, waveform_zero_left 0⟩
  · rintro rfl
    exact waveform_zero_left l
  · rw [waveform_of_pos hp, waveform_zero_left]

/-- SEQ is at a uop only while its latched opcode names a command (R133). -/
theorem currentCommand_of_currentUop {s : State} {u : Uop} (hu : currentUop s = some u) :
    ∃ i, currentCommand s = some i := by
  cases hi : currentCommand s with
  | some i => exact ⟨i, rfl⟩
  | none => simp [currentUop, currentUops, hi] at hu

/-- R174: the duration range is the first check of a PULSE uop. -/
theorem pulseUop_long {h l : Half} {s : State} (hr : s.params.pulseMaxTicks < h ∨ s.params.pulseMaxTicks < l)
    (wt : Bool) : pulseUop h l wt s = .stopped (recordFault .durRange s) := by
  simp [pulseUop, hr]

/-- Once `DUR_RANGE` is recorded SEQ has no enabled step (R271, notes/assumptions/10). -/
theorem seq_disabled_of_durRange {s : State} (hf : ModelFault.durRange ∈ s.faults) : enabled s .seq = false := by
  simp [enabled, hf]

/-- Settles O30: the uop ends `stopped`, after which SEQ's step adds nothing. -/
theorem longDurationStopsSeq : Obligations.LongDurationStopsSeq := by
  intro h l wt s hr hu hh
  obtain ⟨i, hi⟩ := currentCommand_of_currentUop hu
  have ends : Ends (.pulse h l wt) s (.stopped (recordFault .durRange s)) := .inl ⟨hh, (pulseUop_long hr wt).symm⟩
  exact ⟨_, seqStep_of_ends hi hu ends, recordFault_eq _ s, seq_disabled_of_durRange (mem_recordFault_self _ s)⟩

/-- Settles O31: the uop ends by `Err(2)` in the state it found, and `raiseErr` follows. -/
theorem consumedChannelFailsAtOnce : Obligations.ConsumedChannelFailsAtOnce := by
  intro h l wt s hh hl hu hold hc
  obtain ⟨i, hi⟩ := currentCommand_of_currentUop hu
  have fails : runUop (.pulse h l wt) s = .error .channelUnavailable s := consumed_pulse (d := s.draws) hh hl hc
  exact seqStep_of_ends hi hu (.inl ⟨hold, fails.symm⟩)

theorem Owner.channel_eq (c : Owner) : Owner.channel c = if c = .idle then .idle else .inFlight := by
  cases c <;> rfl

/-- The owner of the channel after a failure is the supplied draw (R177, R178). -/
theorem drawOwner_of_supplied {s : State} {c : Owner} {rc : List Owner} (hc : s.draws.owners = c :: rc) :
    drawOwner s = { s with
      pulse := { s.pulse with ch := if c = .idle then .idle else .inFlight }
      draws := { s.draws with owners := rc } } := by
  obtain ⟨next, -⟩ := nextOwner_of_supplied hc
  obtain ⟨-, spend⟩ := nextOwner_of_supplied (s := s.setPulse { s.pulse with ch := Owner.channel (nextOwner s) }) hc
  rw [drawOwner, spend, next, Owner.channel_eq]
  rfl

section InRange

variable {h l : Half} {s : State} {ra : List Answer} (hh : h ≤ s.params.pulseMaxTicks)
  (hl : l ≤ s.params.pulseMaxTicks)
include hh hl

/-- A PULSE uop within range on an Idle channel goes straight to its submission (R177). -/
theorem pulseUop_idle (hc : s.pulse.ch = .idle) (wt : Bool) : pulseUop h l wt s = submitPulse h l wt s := by
  simp [pulseUop, BitVec.not_lt.mpr hh, BitVec.not_lt.mpr hl, hc]

/-- On an Uninitialized channel it initializes it first (R176). -/
theorem pulseUop_init_ok (hc : s.pulse.ch = .uninitialized) (ha : s.draws.answers = .ok :: ra) (wt : Bool) :
    pulseUop h l wt s = submitPulse h l wt (initChannel (s.setDraws { s.draws with answers := ra })) := by
  obtain ⟨next, spend⟩ := nextAnswer_of_supplied ha
  simp [pulseUop, BitVec.not_lt.mpr hh, BitVec.not_lt.mpr hl, hc, next, spend]

theorem pulseUop_init_fail (hc : s.pulse.ch = .uninitialized) (ha : s.draws.answers = .fail :: ra) (wt : Bool) :
    pulseUop h l wt s = .error .pulseConfig (s.setDraws { s.draws with answers := ra }) := by
  obtain ⟨next, spend⟩ := nextAnswer_of_supplied ha
  simp [pulseUop, BitVec.not_lt.mpr hh, BitVec.not_lt.mpr hl, hc, next, spend]

end InRange

/-- A submission that fails draws the channel's owner (R177). -/
theorem submitPulse_fail {s : State} {ra : List Answer} {c : Owner} {rc : List Owner}
    (ha : s.draws.answers = .fail :: ra) (hc : s.draws.owners = c :: rc) (h l : Half) (wt : Bool) :
    submitPulse h l wt s = .error .pulseConfig { s with
      pulse := { s.pulse with ch := if c = .idle then .idle else .inFlight }
      draws := { s.draws with answers := ra, owners := rc } } := by
  obtain ⟨next, spend⟩ := nextAnswer_of_supplied ha
  rw [submitPulse, next, spend]
  exact congrArg (UopEnd.error _) (drawOwner_of_supplied hc)

/-- Settles O32: the failures by the channel's state, the success as `Playing.submission` gives it. -/
theorem pulseSubmission : Obligations.PulseSubmission := by
  intro h l wt s ra c rc hh hl hc
  refine ⟨fun hu ha => pulseUop_init_fail hh hl hu ha wt, fun ha ho => ?submissionFails, fun ha => ?submitted⟩
  case submissionFails =>
    cases hch : s.pulse.ch with
    | inFlight => exact absurd hch hc
    | idle =>
      simp only [hch, reduceCtorEq, if_false, List.nil_append] at ha ⊢
      exact (pulseUop_idle hh hl hch wt).trans (submitPulse_fail ha ho h l wt)
    | uninitialized =>
      simp only [hch, if_true, List.singleton_append] at ha ⊢
      have rest : (initChannel (s.setDraws { s.draws with answers := .fail :: ra })).draws.answers = .fail :: ra := rfl
      exact (pulseUop_init_ok hh hl hch ha wt).trans (submitPulse_fail rest ho h l wt)
  case submitted =>
    refine Playing.submission wt hh hl hc (ha.trans ?_)
    cases hch : s.pulse.ch with
    | inFlight => exact absurd hch hc
    | idle | uninitialized => rfl

section Completion

variable {s : State} {ra : List Answer}

/-- R178, R186: an OK answer returns the channel. -/
theorem takeCompletion_ok (ha : s.draws.answers = .ok :: ra) : takeCompletion s = .done { s with
    pulse := { s.pulse with ch := .idle }
    draws := { s.draws with answers := ra } } := by
  obtain ⟨next, spend⟩ := nextAnswer_of_supplied ha
  rw [takeCompletion, next, spend]
  rfl

/-- R178, R186: a FAIL answer draws the channel's owner. -/
theorem takeCompletion_fail {c : Owner} {rc : List Owner} (ha : s.draws.answers = .fail :: ra)
    (hc : s.draws.owners = c :: rc) : takeCompletion s = .error .pulseConfig { s with
      pulse := { s.pulse with ch := if c = .idle then .idle else .inFlight }
      draws := { s.draws with answers := ra, owners := rc } } := by
  obtain ⟨next, spend⟩ := nextAnswer_of_supplied ha
  rw [takeCompletion, next, spend]
  exact congrArg (UopEnd.error _) (drawOwner_of_supplied hc)

end Completion

/-- Settles O33: both resume parts are `takeCompletion`. -/
theorem completionAnswer : Obligations.CompletionAnswer := by
  intro u s ra c rc hu
  have resume : resumeUop u s = some (takeCompletion s) := by
    obtain ⟨h, l, wt, rfl⟩ | rfl := hu <;> rfl
  exact ⟨fun ha => resume.trans (congrArg some (takeCompletion_ok ha)),
    fun ha hc => resume.trans (congrArg some (takeCompletion_fail ha hc))⟩

section Reclaim

variable {s : State}

/-- R186, branch by branch. -/
theorem reclaimUop_owned (hc : s.pulse.ch ≠ .inFlight) : reclaimUop s = .done s := if_pos hc

theorem reclaimUop_playing (hc : s.pulse.ch = .inFlight) (ha : s.pulse.active = true) :
    reclaimUop s = .held .pulseDone s := by
  simp [reclaimUop, hc, ha]

theorem reclaimUop_atRest (hc : s.pulse.ch = .inFlight) (ha : s.pulse.active = false) :
    reclaimUop s = takeCompletion s := by
  simp [reclaimUop, hc, ha, resumeReclaim]

end Reclaim

/-- Settles O34: the three branches of `reclaimUop`. -/
theorem reclaimWaitsOnlyForPtx : Obligations.ReclaimWaitsOnlyForPtx := fun _ =>
  ⟨reclaimUop_owned, reclaimUop_playing, fun hc ha => congrArg some (reclaimUop_atRest hc ha)⟩

/-- Settles O37: `ptxComplete`, enabled by `ptx_active` alone. -/
theorem ptxCompletion : Obligations.PtxCompletion := fun _ => ⟨rfl, rfl⟩

/-! ### The commands PULSE and RECLAIM, from issue to `Done` (R185 to R188) -/

/-- The end of a command by an error, field by field (R138). -/
theorem raiseErr_eq (e : Err) (s : State) : raiseErr e s = { s with
    seq := { s.seq with busy := false, hold := .none, err := e }
    phase := .unknown
    trace := s.trace ++ [.done e] } := rfl

/-- A completed command, field by field (R136). -/
theorem complete_eq (i : Instr) (s : State) : complete i s = { s with
    seq := { s.seq with busy := false }
    phase := phaseDone i s.phase
    trace := s.trace ++ [.done .none] } := rfl

/-- What follows the last uop of a command, done, field by field (R134, R136). -/
theorem endUop_done_last {n : Nat} {s : State} (last : s.seq.upc + 1 = n) (i : Instr) :
    endUop i n (.done s) = { s with
      seq := { s.seq with busy := false, upc := s.seq.upc + 1 }
      phase := phaseDone i s.phase
      trace := s.trace ++ [.done .none] } :=
  if_pos last

/-- The last uop of a command, done: the command completes in the same step. -/
theorem Playing.last_done {i : Instr} {u : Uop} {s r : State} (h : Playing i [u] s) (hr : runUop u s = .done r) :
    step s = .next { r with
      seq := { r.seq with busy := false, upc := r.seq.upc + 1 }
      phase := phaseDone i r.phase
      trace := r.trace ++ [.done .none] } := by
  obtain ⟨-, -, -, sameSeq, -, -⟩ := runUop_frame u s
  rw [hr] at sameSeq
  have last : r.seq.upc + 1 = (uopsOf s.params s.seq.a0 s.seq.a1 i).length :=
    (congrArg (·.upc + 1) sameSeq).trans (h.not_last.mpr rfl)
  rw [h.step_eq, hr, endUop_done_last last]

theorem runs_one {s t : State} (h : step s = .next t) : Runs 1 s t :=
  (runs_succ 0 s t).mpr ⟨t, h, (runs_zero t t).mpr rfl⟩

/-- A begun command plays its whole uop list, PTX playing beside it or not. -/
theorem begun_playing_beside {i : Instr} {s : State} (q : quiet (s.setPulse { s.pulse with active := false }) = true) :
    Playing i (uopsOf s.params (begun i s).seq.a0 (begun i s).seq.a1 i)
      ((begun i s).setPulse { (begun i s).pulse with active := false }) :=
  begun_playing q

/-- PULSE's operands are written, 16-bit quantities, and durations that the peripheral accepts (R103, R104, R174). -/
structure PulseOperands (r : Regs) (most : Half) : Prop where
  written0 : r.argw0 = true
  written1 : r.argw1 = true
  half0 : r.arg0.extractLsb' 16 16 = 0
  half1 : r.arg1.extractLsb' 16 16 = 0
  high_le : r.arg0.extractLsb' 0 16 ≤ most
  low_le : r.arg1.extractLsb' 0 16 ≤ most

/-- A begun PULSE, field by field (R131). -/
theorem begun_pulse (w : Bool) (s : State) : begun (.pulse w) s = { s with
    seq := { s.seq with
      busy := true, op := 7, w := w, a0 := s.regs.arg0.extractLsb' 0 16, a1 := s.regs.arg1.extractLsb' 0 16,
      upc := 0, hold := .none, err := .none }
    trace := s.trace ++ [.cmd 7 w] } := rfl

/-- Where a PULSE that is not waited ends, its submission accepted, `ra` being the answers left (R179). -/
def afterNowaitPulse (ra : List Answer) (s : State) : State :=
  let h := s.regs.arg0.extractLsb' 0 16
  let l := s.regs.arg1.extractLsb' 0 16
  { s with
    seq := { seqAfter (.pulse false) .none 1 s.seq with a0 := h, a1 := l }
    pulse := playing h l
    draws := { s.draws with answers := ra }
    trace := s.trace ++ [.cmd 7 false, pulseTxOf h l, .done .none] }

section Pulse

variable {s : State} (idle : s.seq.busy = false) (ops : PulseOperands s.regs s.params.pulseMaxTicks)
include idle ops

/-- PULSE with such operands begins. -/
theorem exec_pulse_begun (w : Bool) : exec (.pulse w) s = .next (begun (.pulse w) s) := by
  obtain ⟨-, issues, -, -⟩ := operandCommandsIssue s idle
  exact issues w ops.written0 ops.written1 ops.half0 ops.half1

/-- A waited PULSE: submission, PTX's turn, completion answer (R178). -/
theorem pulse_wait_run {ra : List Answer} {rt : List Agent} (q : quiet s = true) (hc : s.pulse.ch ≠ .inFlight)
    (ha : s.draws.answers = List.replicate (answersNeeded s.pulse.ch 2) .ok ++ ra) (ht : s.draws.turns = .ptx :: rt) :
    ∃ t, exec (.pulse true) s = .next t ∧ Runs 3 t { s with
      seq := { seqAfter (.pulse true) .none 1 s.seq with
        a0 := s.regs.arg0.extractLsb' 0 16, a1 := s.regs.arg1.extractLsb' 0 16 }
      pulse := idleChannel
      draws := { s.draws with answers := ra, turns := rt }
      trace := s.trace ++ [.cmd 7 true] ++ waitedPulse (s.regs.arg0.extractLsb' 0 16) (s.regs.arg1.extractLsb' 0 16)
        ++ [.done .none] } := by
  refine ⟨_, exec_pulse_begun idle ops true, ?_⟩
  obtain ⟨t, rfl, run, -⟩ := (begun_playing (i := .pulse true) q).waited_run ops.high_le ops.low_le hc ha ht
  rw [if_pos rfl, complete_eq, begun_pulse] at run
  exact run

/-- A PULSE that is not waited ends with its submission (R179). -/
theorem pulse_nowait_run {ra : List Answer} (q : quiet s = true) (hc : s.pulse.ch ≠ .inFlight)
    (ha : s.draws.answers = List.replicate (answersNeeded s.pulse.ch 1) .ok ++ ra) :
    ∃ t, exec (.pulse false) s = .next t ∧ Runs 1 t (afterNowaitPulse ra s) := by
  refine ⟨_, exec_pulse_begun idle ops false, ?_⟩
  obtain ⟨t, rfl, submitted⟩ := Playing.submission (s := begun (.pulse false) s) false ops.high_le ops.low_le hc ha
  have ends := (begun_playing (i := .pulse false) q).last_done submitted
  rw [begun_pulse] at ends
  rw [afterNowaitPulse, List.append_cons, List.append_cons (s.trace ++ _)]
  exact runs_one ends

/-- A PULSE on a consumed channel, PTX playing or not, ends with `Err(2)` in one step (R175). -/
theorem pulse_consumed_run {rt : List Agent} (w : Bool) (q : quiet (s.setPulse { s.pulse with active := false }) = true)
    (hc : s.pulse.ch = .inFlight) (ht : s.draws.turns = seqTurns s.pulse.active 1 ++ rt) :
    ∃ t, exec (.pulse w) s = .next t ∧ Runs 1 t { s with
      seq := { seqAfter (.pulse w) .channelUnavailable 0 s.seq with
        a0 := s.regs.arg0.extractLsb' 0 16, a1 := s.regs.arg1.extractLsb' 0 16 }
      phase := .unknown
      draws := { s.draws with turns := rt }
      trace := s.trace ++ [.cmd 7 w, .done .channelUnavailable] } := by
  refine ⟨_, exec_pulse_begun idle ops w, ?_⟩
  have st := (begun_playing_beside (i := .pulse w) q).turn_consumed ops.high_le ops.low_le hc ht
  rw [raiseErr_eq, begun_pulse] at st
  rw [List.append_cons]
  exact runs_one st

end Pulse

/-- Settles O19: `pulse_wait_run` and `pulse_nowait_run`. -/
theorem pulseRuns : Obligations.PulseRuns := by
  intro s ra rt q idle hc w0 w1 r0 r1 hh hl
  have ops : PulseOperands s.regs s.params.pulseMaxTicks := ⟨w0, w1, r0, r1, hh, hl⟩
  exact ⟨pulse_wait_run idle ops q hc, pulse_nowait_run idle ops q hc⟩

/-- Settles O22: `pulse_consumed_run` after `pulse_nowait_run`, PTX still playing the first waveform. -/
theorem secondPulseFailsAtOnce : Obligations.SecondPulseFailsAtOnce := by
  intro s ra rt w q idle hc w0 w1 r0 r1 hh hl ha ht
  have ops : PulseOperands s.regs s.params.pulseMaxTicks := ⟨w0, w1, r0, r1, hh, hl⟩
  obtain ⟨t, issued, run⟩ := pulse_nowait_run idle ops q hc ha
  obtain ⟨hp, -, hd, hf⟩ := (quiet_iff s).mp q
  have beside :
      quiet ((afterNowaitPulse ra s).setPulse { (afterNowaitPulse ra s).pulse with active := false }) = true :=
    (quiet_iff _).mpr ⟨hp, rfl, hd, hf⟩
  obtain ⟨v, issued', run'⟩ := pulse_consumed_run (s := afterNowaitPulse ra s) rfl ops w beside rfl ht
  have traces : (afterNowaitPulse ra s).trace ++ [.cmd 7 w, .done .channelUnavailable] = s.trace ++ _ :=
    List.append_assoc ..
  rw [traces] at run'
  exact ⟨t, _, v, issued, run, rfl, rfl, issued', run'⟩

/-- RECLAIM, where it is present, begins. -/
theorem exec_reclaim_begun {s : State} (idle : s.seq.busy = false) (present : s.params.reclaimPresent = true) :
    exec .reclaim s = .next (begun .reclaim s) :=
  exec_begun idle (.inr present) rfl rfl

/-- The last uop of a command waits for PTX, whose turn and whose OK answer are supplied: PTX completes, SEQ's resume
returns the channel, and the command completes (R178, R180, R186). -/
theorem held_last_run {i : Instr} {u : Uop} {s : State} {ra : List Answer} {rt : List Agent}
    (h : Playing i [u] ((setHold .none s).setPulse { s.pulse with active := false })) (hold : s.seq.hold = .pulseDone)
    (takes : ∀ r, resumeUop u r = some (takeCompletion r)) (active : s.pulse.active = true)
    (ha : s.draws.answers = .ok :: ra) (ht : s.draws.turns = .ptx :: rt) :
    Runs 2 s { s with
      seq := { s.seq with busy := false, upc := s.seq.upc + 1, hold := .none }
      pulse := idleChannel
      phase := phaseDone i s.phase
      draws := { s.draws with answers := ra, turns := rt }
      trace := s.trace ++ [.pulseDone, .done .none] } := by
  obtain ⟨hp, -, hd, hf⟩ := (quiet_iff _).mp h.isQuiet
  have last : s.seq.upc + 1 = (uopsOf s.params s.seq.a0 s.seq.a1 i).length := h.not_last.mpr rfl
  have completes : step s = .next (ptxComplete (s.setDraws { s.draws with turns := rt })) :=
    step_ptx_turn hp active hd ht
  have rests : quiet (ptxComplete (s.setDraws { s.draws with turns := rt })) = true :=
    (quiet_iff _).mpr ⟨hp, rfl, hd, hf⟩
  have held : (ptxComplete (s.setDraws { s.draws with turns := rt })).seq.hold ≠ .none :=
    fun clear => Hold.noConfusion (hold.symm.trans clear)
  have resumes := seqStep_of_ends (s := ptxComplete (s.setDraws { s.draws with turns := rt })) h.command
    h.currentUop_eq (.inr ⟨held, (takes _).trans (congrArg some (takeCompletion_ok (ra := ra) ha))⟩)
  rw [endUop_done_last (by exact last)] at resumes
  rw [List.append_cons]
  exact (runs_succ _ _ _).mpr ⟨_, completes, runs_one ((step_quiet_seq rests h.busy).trans resumes)⟩

/-- A RECLAIM uop beside a playing PTX: SEQ's turn, on which it holds, and then `held_last_run` (R186). -/
theorem Playing.reclaim_beside_run {s : State} {ra : List Answer} {rt : List Agent}
    (h : Playing .reclaim [.reclaim] (s.setPulse { s.pulse with active := false })) (active : s.pulse.active = true)
    (hc : s.pulse.ch = .inFlight) (ha : s.draws.answers = .ok :: ra) (ht : s.draws.turns = [.seq, .ptx] ++ rt) :
    Runs 3 s { s with
      seq := { s.seq with busy := false, upc := s.seq.upc + 1, hold := .none }
      pulse := idleChannel
      draws := { s.draws with answers := ra, turns := rt }
      trace := s.trace ++ [.pulseDone, .done .none] } := by
  have holds := h.turn_step (n := 0) (rt := .ptx :: rt) (by rw [active]; exact ht)
  rw [active, runUop, reclaimUop_playing (by exact hc) (by exact active)] at holds
  have ends := held_last_run (s := setHold .pulseDone (s.setDraws { s.draws with turns := .ptx :: rt })) (ra := ra)
    ⟨h.isQuiet, h.busy, rfl, h.command, h.left⟩ rfl (fun _ => rfl) active ha rfl
  exact (runs_succ _ _ _).mpr ⟨_, holds, ends⟩

/-- Settles O20: RECLAIM's one uop is done at once, or held until PTX's turn. -/
theorem reclaimRuns : Obligations.ReclaimRuns := by
  intro s ra rt idle present
  refine ⟨fun q hc => ?owned, fun q hc ha => ?atRest, fun q active hc ha ht => ?playing⟩ <;>
    refine ⟨_, exec_reclaim_begun idle present, ?_⟩ <;> rw [List.append_cons]
  case owned =>
    have ends := (begun_playing (i := .reclaim) q).last_done (reclaimUop_owned hc)
    rw [begun_eq s rfl] at ends
    exact runs_one ends
  case atRest =>
    obtain ⟨-, rest, -⟩ := (quiet_iff s).mp q
    have done := (reclaimUop_atRest (s := begun .reclaim s) hc rest).trans (takeCompletion_ok ha)
    have ends := (begun_playing (i := .reclaim) q).last_done done
    rw [begun_eq s rfl] at ends
    exact runs_one ends
  case playing =>
    have ends := (begun_playing_beside (i := .reclaim) q).reclaim_beside_run active hc ha ht
    rw [begun_eq s rfl] at ends ⊢
    exact ends

end Sys2Proof.Machine

namespace Sys2Proof.Machine

/-! ### The row on its way to the bus (R80, R200, R201, R217) -/

theorem rowByte_written {s : State} {i : Nat} {b : Byte} (h : Memory.read s.buf i = some b) :
    rowByte i s = b ∧ spendRowByte i s = s := by
  simp [rowByte, spendRowByte, h]

theorem rowByte_unwritten {s : State} {i : Nat} (h : Memory.read s.buf i = none) :
    rowByte i s = nextByte s ∧ spendRowByte i s = spendByte s := by
  simp [rowByte, spendRowByte, h]

@[simp] theorem spendRowByte_buf (i : Nat) (s : State) : (spendRowByte i s).buf = s.buf := by
  unfold spendRowByte
  split <;> rfl

/-- A written byte is sent as it stands (R200). -/
theorem rowBytes_written {n i k : Nat} {s : State} {b : Byte} (hk : k < n) (hb : Memory.read s.buf (i + k) = some b) :
    (rowBytes n i s)[k]? = some b := by
  induction k generalizing n i s with
  | zero =>
    obtain ⟨n, rfl⟩ := Nat.exists_eq_add_one_of_ne_zero hk.ne'
    obtain ⟨sent, -⟩ := rowByte_written hb
    rw [rowBytes, List.getElem?_cons_zero, ← sent, Nat.add_zero]
  | succ k ih =>
    obtain ⟨n, rfl⟩ := Nat.exists_eq_add_one_of_ne_zero (Nat.ne_zero_of_lt hk)
    rw [rowBytes, List.getElem?_cons_succ]
    refine ih (Nat.lt_of_succ_lt_succ hk) ?_
    rw [spendRowByte_buf, ← hb]
    congr 1
    omega

/-- How many of the `k` indexes from `i` on hold no written byte (R35). -/
def unwrittenFrom (m : Memory) (i k : Nat) : Nat :=
  ((List.range' i k).filter fun j => (Memory.read m j).isNone).length

theorem unwrittenFrom_succ_written {m : Memory} {i : Nat} {b : Byte} (h : Memory.read m i = some b) (k : Nat) :
    unwrittenFrom m i (k + 1) = unwrittenFrom m (i + 1) k := by
  simp [unwrittenFrom, List.range'_succ, h]

theorem unwrittenFrom_succ_unwritten {m : Memory} {i : Nat} (h : Memory.read m i = none) (k : Nat) :
    unwrittenFrom m i (k + 1) = unwrittenFrom m (i + 1) k + 1 := by
  simp [unwrittenFrom, List.range'_succ, h]

/-- An unwritten byte is sent as the next supplied draw that the unwritten bytes before it have left (R200). -/
theorem rowBytes_unwritten {n i k : Nat} {s : State} {d : Byte} (hk : k < n)
    (hb : Memory.read s.buf (i + k) = none) (hd : s.draws.bytes[unwrittenFrom s.buf i k]? = some d) :
    (rowBytes n i s)[k]? = some d := by
  induction k generalizing n i s with
  | zero =>
    obtain ⟨n, rfl⟩ := Nat.exists_eq_add_one_of_ne_zero hk.ne'
    obtain ⟨sent, -⟩ := rowByte_unwritten hb
    obtain ⟨rest, hs⟩ : ∃ rest, s.draws.bytes = d :: rest := by
      rw [← List.head?_eq_some_iff, List.head?_eq_getElem?]
      exact hd
    rw [rowBytes, List.getElem?_cons_zero]
    exact congrArg some (sent.trans (nextByte_of_supplied hs).1)
  | succ k ih =>
    obtain ⟨n, rfl⟩ := Nat.exists_eq_add_one_of_ne_zero (Nat.ne_zero_of_lt hk)
    rw [rowBytes, List.getElem?_cons_succ]
    refine ih (Nat.lt_of_succ_lt_succ hk) ?_ ?_
    · rw [spendRowByte_buf, ← hb]
      congr 1
      omega
    · rw [spendRowByte_buf]
      cases hi : Memory.read s.buf i with
      | some b =>
        obtain ⟨-, spent⟩ := rowByte_written hi
        rwa [spent, ← unwrittenFrom_succ_written hi]
      | none =>
        obtain ⟨-, spent⟩ := rowByte_unwritten hi
        rw [unwrittenFrom_succ_unwritten hi] at hd
        cases hs : s.draws.bytes with
        | nil => simp [hs] at hd
        | cons b rest =>
          rw [hs, List.getElem?_cons_succ] at hd
          rw [spent, (nextByte_of_supplied hs).2]
          exact hd

/-- DMA_ROW, field by field (R200). -/
theorem runUop_dmaRow (s : State) : runUop .dmaRow s = .held .dmaDone { s with
    dma := { s.dma with active := true }
    draws := (spendRow s.params.bytesPerLine 0 s).draws
    trace := s.trace ++ [.dmaTx (rowBytes s.params.bytesPerLine 0 s)] } := by
  obtain ⟨d, e⟩ := spendRow_eq s.params.bytesPerLine 0 s
  simp only [runUop, dmaRowUop, e]
  rfl

/-- What a row leaves of the draws depends on the buffer, the supplied bytes and the draw count alone. -/
theorem row_of_same {n i : Nat} {s t : State} (hb : t.buf = s.buf) (hy : t.draws.bytes = s.draws.bytes)
    (hn : t.draws.drawn = s.draws.drawn) : rowBytes n i t = rowBytes n i s ∧
    (spendRow n i t).draws =
      { t.draws with bytes := (spendRow n i s).draws.bytes, drawn := (spendRow n i s).draws.drawn } := by
  obtain ⟨same, b, k, et, es⟩ := row_congr n i hb hy hn
  exact ⟨same, by rw [et, es]; rfl⟩

/-- Sending row bytes takes draws of bytes alone. -/
theorem spendRow_draws (n i : Nat) (s : State) : (spendRow n i s).draws =
    { s.draws with bytes := (spendRow n i s).draws.bytes, drawn := (spendRow n i s).draws.drawn } :=
  (row_of_same (s := s) (t := s) rfl rfl rfl).2

/-- Settles O35: the two kinds of byte, and the draws that `spendRow_draws` leaves. -/
theorem rowBytesAreTheBuffer : Obligations.RowBytesAreTheBuffer := by
  intro s
  refine ⟨_, _, runUop_dmaRow s, rowBytes_length _ 0 s, fun i b hi hb => ?written,
    fun i d hi hb hd => ?unwritten, ?frame⟩
  case written => exact rowBytes_written hi (by rwa [Nat.zero_add])
  case unwritten =>
    rw [List.range_eq_range'] at hd
    exact rowBytes_unwritten hi (by rwa [Nat.zero_add]) hd
  case frame => rw [← spendRow_draws]

/-- DMA's completion step, its outcome supplied (R201). -/
theorem dmaComplete_of_supplied {s : State} {r : BusResult} {rb : List BusResult} (hr : s.draws.busResults = r :: rb) :
    dmaComplete s = { s with
      dma := { active := false, result := some r }
      trace := s.trace ++ [.dmaDone r]
      draws := { s.draws with busResults := rb } } := by
  obtain ⟨next, spend⟩ := nextBusResult_of_supplied hr
  rw [dmaComplete, next, spend]
  rfl

/-- The resume part of DMA_ROW looks at the outcome (R200). -/
theorem resumeDma_of_result {s : State} {r : BusResult} (h : s.dma.result = some r) :
    resumeDma s = if r = .ok then .done s else .error .busTransfer s := by
  simp [resumeDma, h]

/-- Settles O36: `dmaComplete_of_supplied`, and DMA_ROW's resume after it. -/
theorem transferOutcome : Obligations.TransferOutcome := by
  intro s r rb hr
  exact ⟨rfl, _, congrArg Host.Outcome.next (dmaComplete_of_supplied hr), rfl, congrArg some (resumeDma_of_result rfl)⟩

/-! ### SET_BUFFER (R108, R215, R216) -/

/-- The assembler refuses data longer than the buffer, and nothing else (R108). -/
theorem expand_setBuffer (p : Params) (data : List Byte) : Asm.expand p (.setBuffer data) =
    if data.length ≤ p.bytesPerLine then some (copyBytes 0 data) else none := by
  simp [Asm.expand, Asm.wf, bufferCopyWf]

/-- The window of a buffer that fits holds the offset of each of its bytes (R8, R72). -/
theorem bufOffset_toNat {p : Params} {i : Nat} (fits : p.lineFits = true) (hi : i < p.bytesPerLine) :
    (bufOffset i).toNat = bufBase + i := by
  simp only [Params.lineFits, Bool.and_eq_true, decide_eq_true_eq] at fits
  simp only [bufOffset, BitVec.toNat_ofNat]
  exact Nat.mod_eq_of_lt (by simp only [bufBase]; omega)

/-- A byte in a 4-byte word is the word's low byte (notes/assumptions/18). -/
theorem extractLsb'_zeroExtend_byte (b : Byte) : (b.zeroExtend 32).extractLsb' 0 8 = b := by
  ext k hk
  simp [hk, show k < 32 by omega, BitVec.getLsbD_eq_getElem]

namespace Memory

/-- The buffer after `data` is written from index `i` on (R215). -/
def writeFrom : Nat → List Byte → Memory → Memory
  | _, [], m => m
  | i, b :: rest, m => writeFrom (i + 1) rest (write m i b)

/-- Outside the stretch written every byte stays (R216). -/
theorem read_writeFrom_outside {i j : Nat} {data : List Byte} (m : Memory) (h : j < i ∨ i + data.length ≤ j) :
    read (writeFrom i data m) j = read m j := by
  induction data generalizing i m with
  | nil => rfl
  | cons b rest ih =>
    rw [List.length_cons] at h
    rw [writeFrom, ih _ (by omega), read_write_other m b (by omega)]

/-- Inside it each byte is the data's (R215). -/
theorem read_writeFrom_inside {i k : Nat} {data : List Byte} (m : Memory) (h : k < data.length) :
    read (writeFrom i data m) (i + k) = data[k]? := by
  induction data generalizing i k m with
  | nil => exact absurd h (Nat.not_lt_zero k)
  | cons b rest ih =>
    cases k with
    | zero =>
      have first : i + 0 < i + 1 := Nat.lt_succ_self i
      rw [writeFrom, read_writeFrom_outside _ (.inl first), Nat.add_zero, read_write_same, List.getElem?_cons_zero]
    | succ k =>
      rw [writeFrom, List.getElem?_cons_succ, ← ih (i := i + 1) (write m i b) (Nat.lt_of_succ_lt_succ h)]
      congr 1
      omega

end Memory

/-- With nothing else pending the HOST's byte write is the next step (R13, R74, R107). -/
theorem step_storeByte {s : State} {i : Nat} {b : Byte} {rest : List Access} (fits : s.params.lineFits = true)
    (hi : i < s.params.bytesPerLine) (q : quiet (s.setHost { s.host with program := [] }) = true)
    (idle : s.seq.busy = false) (hp : s.host.program = storeByte (bufOffset i) b :: rest) :
    step s = .next { s with host := { s.host with program := rest }, buf := Memory.write s.buf i b } := by
  obtain ⟨-, ha, hd, -⟩ := (quiet_iff _).mp q
  rw [State.setHost_pulse] at ha
  rw [State.setHost_dma] at hd
  have alone : enabledAgents s = [.host] := by
    simp [enabledAgents, enabled, hostEnabled, hp, storeByte, idle, ha, hd]
  have accesses : step s = hostWrite (bufOffset i) 1 (b.zeroExtend 32) (s.setHost { s.host with program := rest }) := by
    simp [step, scheduledStep, alone, hostStep, hp, storeByte, hostAccess]
  have writes := hostWrite_bufByte (s := s.setHost { s.host with program := rest }) (bufOffset_toNat fits hi) hi
  obtain ⟨busy, -⟩ | ⟨-, e⟩ := writeBuf_cases i b (s.setHost { s.host with program := rest })
  · exact absurd (idle.symm.trans busy) nofun
  · rw [accesses, writes, extractLsb'_zeroExtend_byte, e]
    rfl

/-- The byte writes of a stretch of data within the buffer, one step each (R215). -/
theorem copyBytes_run {s : State} {i : Nat} {data : List Byte} (fits : s.params.lineFits = true)
    (hi : i + data.length ≤ s.params.bytesPerLine) (q : quiet (s.setHost { s.host with program := [] }) = true)
    (idle : s.seq.busy = false) (hp : s.host.program = copyBytes i data) :
    Runs data.length s
      { s with host := { s.host with program := [] }, buf := Memory.writeFrom i data s.buf } := by
  induction data generalizing i s with
  | nil =>
    rw [copyBytes] at hp
    rw [← hp]
    exact (runs_zero _ _).mpr rfl
  | cons b rest ih =>
    rw [List.length_cons] at hi
    have first := step_storeByte fits (by omega) q idle hp
    exact (runs_succ _ _ _).mpr ⟨_, first, ih fits (by simp only; omega) q idle rfl⟩

/-- Settles O47: `expand_setBuffer`, and `copyBytes_run` from index 0. -/
theorem setBufferWritesThePrefix : Obligations.SetBufferWritesThePrefix := by
  intro s data prog fits
  rw [expand_setBuffer]
  constructor
  · simp
  · intro expands q idle hp
    obtain ⟨hl, rfl⟩ : data.length ≤ s.params.bytesPerLine ∧ copyBytes 0 data = prog := by simpa using expands
    refine ⟨_, copyBytes_run fits (by omega) q idle hp, rfl, fun i hi => ?_, fun j hj => ?_⟩
    · rw [← Memory.read_writeFrom_inside s.buf hi, Nat.zero_add]
    · exact Memory.read_writeFrom_outside s.buf (.inr (by omega))

end Sys2Proof.Machine


namespace Sys2Proof.Machine

/-! ### Commands on a consumed channel (R175, R208, R235, R310) -/

/-- R8: every fixed duration is one the peripheral accepts. -/
theorem ticksFit_iff (p : Params) : p.ticksFit = true ↔
    p.fsAH ≤ p.pulseMaxTicks ∧ p.fsAL ≤ p.pulseMaxTicks ∧ p.fsLongH ≤ p.pulseMaxTicks ∧
    p.fsLongL ≤ p.pulseMaxTicks ∧ p.fsPrimeH ≤ p.pulseMaxTicks ∧ p.fsPrimeL ≤ p.pulseMaxTicks ∧
    p.fsZH ≤ p.pulseMaxTicks ∧ p.fsZL ≤ p.pulseMaxTicks ∧ p.feH ≤ p.pulseMaxTicks ∧ p.feL ≤ p.pulseMaxTicks ∧
    p.skipH ≤ p.pulseMaxTicks ∧ p.skipL ≤ p.pulseMaxTicks ∧ p.rowLow ≤ p.pulseMaxTicks := by
  simp [Params.ticksFit, Params.fixedTicks]

/-- Where a command ends whose uops `us` are plain and followed by a PULSE that finds the channel consumed, `rt` being the
turns left (R138, R175). -/
def abortedAfter (us : List Uop) (rt : List Agent) (s : State) : State :=
  { s with
    cfg := cfgAfter s.cfg us
    seq := { s.seq with busy := false, upc := s.seq.upc + us.length, hold := .none, err := .channelUnavailable }
    lines := (shownAfter s.cfg (s.lines, s.panel) us).1
    panel := (shownAfter s.cfg (s.lines, s.panel) us).2
    phase := .unknown
    draws := { s.draws with turns := rt }
    trace := s.trace ++ eventsAfter s.cfg us ++ [.done .channelUnavailable] }

/-- SEQ's run to that end, PTX playing or not. -/
theorem Playing.aborted_run {i : Instr} {us vs : List Uop} {a b : Half} {wt : Bool} {s : State} {rt : List Agent}
    (h : Playing i (us ++ .pulse a b wt :: vs) (s.setPulse { s.pulse with active := false }))
    (plain : us.all Uop.plain = true) (ha : a ≤ s.params.pulseMaxTicks) (hb : b ≤ s.params.pulseMaxTicks)
    (hc : s.pulse.ch = .inFlight) (ht : s.draws.turns = seqTurns s.pulse.active (us.length + 1) ++ rt) :
    Runs (us.length + 1) s (abortedAfter us rt s) := by
  obtain ⟨t, et, run, next⟩ := h.turn_run plain (List.cons_ne_nil _ _) ht
  rw [effects_fields] at et
  subst et
  exact runs_add run (runs_one (next.turn_consumed (rt := rt) ha hb hc rfl))

/-- A command whose first PULSE follows the plain uops `us`, from its issue. -/
theorem exec_aborted_run {i : Instr} {us vs : List Uop} {a b : Half} {wt : Bool} {s : State} {rt : List Agent}
    (q : quiet (s.setPulse { s.pulse with active := false }) = true) (hc : s.pulse.ch = .inFlight)
    (issued : exec i s = .next (begun i s))
    (list : uopsOf s.params (begun i s).seq.a0 (begun i s).seq.a1 i = us ++ .pulse a b wt :: vs)
    (plain : us.all Uop.plain = true) (ha : a ≤ s.params.pulseMaxTicks) (hb : b ≤ s.params.pulseMaxTicks)
    (ht : s.draws.turns = seqTurns s.pulse.active (us.length + 1) ++ rt) :
    ∃ t, exec i s = .next t ∧ Runs (us.length + 1) t (abortedAfter us rt (begun i s)) := by
  have plays := begun_playing_beside (i := i) q
  rw [list] at plays
  exact ⟨_, issued, plays.aborted_run plain ha hb hc ht⟩

/-- OUTPUT_ROW with its operand written and in range begins. -/
theorem exec_outputRow_begun {s : State} (idle : s.seq.busy = false) (written : s.regs.argw0 = true)
    (half : s.regs.arg0.extractLsb' 16 16 = 0) : exec .outputRow s = .next (begun .outputRow s) := by
  obtain ⟨issues, -⟩ := operandCommandsIssue s idle
  exact issues written half

theorem exec_skip_begun {s : State} (idle : s.seq.busy = false) : exec .skip s = .next (begun .skip s) :=
  exec_begun idle (.inl nofun) rfl rfl

/-- Settles O21: `exec_aborted_run` with the uops before the first pulse, and `pulse_consumed_run`. -/
theorem consumedChannelAbortsCommands : Obligations.ConsumedChannelAbortsCommands := by
  intro s rt q idle hc fit
  obtain ⟨fsAH, fsAL, -, -, -, -, -, -, feH, feL, skipH, skipL, rowLow⟩ := (ticksFit_iff s.params).mp fit
  refine ⟨fun ht => ?frameStart, fun ht => ?frameEnd, fun ht written half high => ?outputRow, fun ht => ?skip,
    fun w ht w0 w1 r0 r1 high low => pulse_consumed_run idle ⟨w0, w1, r0, r1, high, low⟩ w q hc ht⟩
  case frameStart =>
    have aborts := exec_aborted_run (us := [.setf .mode true, .shift]) q hc
      (exec_begun (i := .frameStart) idle (.inl nofun) rfl rfl) rfl rfl fsAH fsAL ht
    simp only [abortedAfter, eventsAfter, List.append_nil] at aborts
    exact aborts
  case frameEnd =>
    have aborts := exec_aborted_run (us := [.setf .outputEnable false, .shift, .setf .mode true, .shift]) q hc
      (exec_begun (i := .frameEnd) idle (.inl nofun) rfl rfl) rfl rfl feH feL ht
    simp only [abortedAfter, eventsAfter, List.append_nil, ← List.append_assoc] at aborts
    exact aborts
  case outputRow =>
    have aborts := exec_aborted_run (us := [.setf .latchEnable true, .shift, .setf .latchEnable false, .shift]) q hc
      (exec_outputRow_begun idle written half) rfl rfl high rowLow ht
    simp only [abortedAfter, eventsAfter, List.append_nil, ← List.append_assoc] at aborts
    exact aborts
  case skip =>
    have aborts := exec_aborted_run (us := []) q hc (exec_skip_begun idle) rfl rfl skipH skipL ht
    simp only [abortedAfter, eventsAfter, List.append_nil] at aborts
    rw [List.append_cons]
    exact aborts

/-! ### SKIP (R210) -/

/-- Settles O18: SKIP's one uop is a waited pulse, or is done with its submission. -/
theorem skipRuns : Obligations.SkipRuns := by
  intro s ra rt q idle hc fit
  obtain ⟨-, -, -, -, -, -, -, -, -, -, skipH, skipL, -⟩ := (ticksFit_iff s.params).mp fit
  have plays : Playing .skip [.pulse s.params.skipH s.params.skipL s.params.skipWait] (begun .skip s) := begun_playing q
  refine ⟨fun wait ha ht => ⟨_, exec_skip_begun idle, ?waited⟩, fun nowait ha => ⟨_, exec_skip_begun idle, ?nowait⟩⟩
  case waited =>
    rw [wait] at plays
    obtain ⟨t, rfl, run, -⟩ := plays.waited_run skipH skipL hc ha ht
    rw [if_pos rfl, complete_eq, begun_eq s rfl] at run
    exact run
  case nowait =>
    rw [nowait] at plays
    obtain ⟨t, rfl, submitted⟩ := Playing.submission (s := begun .skip s) false skipH skipL hc ha
    have ends := plays.last_done submitted
    rw [List.append_cons, List.append_cons (s.trace ++ _)]
    exact runs_one ends

end Sys2Proof.Machine


namespace Sys2Proof.Machine

/-! ### The agent's turn while PTX or DMA could move (R13, R81) -/

/-- Where PTX or DMA has an enabled step the agent is drawn. -/
theorem step_eq_drawnStep {s : State} {a : Agent} (he : enabled s a = true) (ha : a = .ptx ∨ a = .dma) :
    step s = drawnStep s := by
  have mem : a ∈ enabledAgents s := List.mem_filter.mpr ⟨by cases a <;> decide, he⟩
  unfold step scheduledStep
  split
  case h_4 => rfl
  all_goals
    rename_i e
    obtain rfl | rfl := ha <;> simp [e] at mem

/-- The agent whose turn is supplied moves, if it can. -/
theorem drawnStep_of_turn {s : State} {a : Agent} {rt : List Agent} (ht : s.draws.turns = a :: rt)
    (he : enabled s a = true) : drawnStep s = agentStep a (s.setDraws { s.draws with turns := rt }) := by
  obtain ⟨next, spend⟩ := nextTurn_of_supplied ht
  rw [drawnStep, next, if_pos he, spend]

/-- A turn drawn for DMA is its completion, whatever SEQ and PTX do (R201). -/
theorem step_dma_turn {s : State} {r : BusResult} {rb : List BusResult} {rt : List Agent} (hd : s.dma.active = true)
    (hr : s.draws.busResults = r :: rb) (ht : s.draws.turns = .dma :: rt) : step s = .next { s with
      dma := { active := false, result := some r }
      trace := s.trace ++ [.dmaDone r]
      draws := { s.draws with busResults := rb, turns := rt } } := by
  rw [step_eq_drawnStep (a := .dma) hd (.inr rfl), drawnStep_of_turn ht hd, agentStep]
  exact congrArg Host.Outcome.next (dmaComplete_of_supplied hr)

/-- SEQ, what it waits for having come, moves at its turn where PTX plays beside it, and without a draw where not. -/
theorem step_seq_lifted {s : State} {rt : List Agent} (hp : s.host.program = []) (hd : s.dma.active = false)
    (hf : ModelFault.durRange ∉ s.faults) (busy : s.seq.busy = true) (lifted : holdLifted s = true)
    (ht : s.draws.turns = seqTurns s.pulse.active 1 ++ rt) :
    step s = seqStep (s.setDraws { s.draws with turns := rt }) := by
  cases active : s.pulse.active with
  | true =>
    rw [active] at ht
    have can : enabled s .seq = true := by simp [enabled, busy, hf, lifted]
    rw [step_eq_drawnStep (a := .ptx) active (.inl rfl), drawnStep_of_turn ht can]
    rfl
  | false =>
    rw [active] at ht
    obtain rfl : s.draws.turns = rt := ht
    exact step_quiet_seq ((quiet_iff s).mpr ⟨hp, active, hd, hf⟩) busy

/-! ### A row transfer that ends its command (R200, R201) -/

/-- The row is submitted and SEQ waits for it, `rt` being the turns left (R200). -/
def rowSubmitted (rt : List Agent) (s : State) : State :=
  { s with
    seq := { s.seq with hold := .dmaDone }
    dma := { s.dma with active := true }
    draws := { (spendRow s.params.bytesPerLine 0 s).draws with turns := rt }
    trace := s.trace ++ [.dmaTx (rowBytes s.params.bytesPerLine 0 s)] }

/-- The transfer has ended with outcome `r`, SEQ still at its hold, `rb` being the outcomes left (R201). -/
def rowTransferred (r : BusResult) (rb : List BusResult) (rt : List Agent) (s : State) : State :=
  { s with
    seq := { s.seq with hold := .dmaDone }
    dma := { active := false, result := some r }
    draws := { (spendRow s.params.bytesPerLine 0 s).draws with busResults := rb, turns := rt }
    trace := s.trace ++ [.dmaTx (rowBytes s.params.bytesPerLine 0 s), .dmaDone r] }

/-- The command `i`, whose last uop sent the row, has ended by the transfer's outcome (R136, R138, R200). -/
def afterRow (i : Instr) (r : BusResult) (rb : List BusResult) (rt : List Agent) (s : State) : State :=
  let t := rowTransferred r rb rt s
  { t with
    seq := { s.seq with
      busy := false, upc := if r = .ok then s.seq.upc + 1 else s.seq.upc, hold := .none,
      err := if r = .ok then s.seq.err else .busTransfer }
    phase := if r = .ok then phaseDone i s.phase else .unknown
    trace := t.trace ++ [.done (if r = .ok then .none else .busTransfer)] }

theorem step_rowSubmitted {s : State} {r : BusResult} {rb : List BusResult} (hr : s.draws.busResults = r :: rb)
    (rt : List Agent) : step (rowSubmitted (.dma :: rt) s) = .next (rowTransferred r rb rt s) := by
  have supplied : (rowSubmitted (.dma :: rt) s).draws.busResults = r :: rb := by
    rw [rowSubmitted, spendRow_draws]
    exact hr
  rw [step_dma_turn rfl supplied rfl, rowTransferred, List.append_cons s.trace]
  rfl

section Row

variable {i : Instr} {s : State} {rt : List Agent}
  (h : Playing i [.dmaRow] (s.setPulse { s.pulse with active := false }))
include h

/-- DMA_ROW's own step, PTX playing or not (R200). -/
theorem Playing.row_submission (ht : s.draws.turns = seqTurns s.pulse.active 1 ++ rt) :
    step s = .next (rowSubmitted rt s) := by
  obtain ⟨hp, -, hd, hf⟩ := (quiet_iff _).mp h.isQuiet
  have hold : s.seq.hold = .none := h.hold
  have lifted : holdLifted s = true := by simp [holdLifted, hold]
  have submits := seqStep_of_ends (s := s.setDraws { s.draws with turns := rt }) h.command h.currentUop_eq
    (.inl ⟨hold, rfl⟩)
  obtain ⟨row, left⟩ := row_of_same (n := s.params.bytesPerLine) (i := 0) (s := s)
    (t := s.setDraws { s.draws with turns := rt }) rfl rfl rfl
  rw [step_seq_lifted (s := s) hp hd hf h.busy lifted ht, submits, runUop_dmaRow, State.setDraws_params, row, left,
    rowSubmitted, spendRow_draws]
  rfl

/-- Its resume part, by which the command completes or ends with `Err(3)` (R136, R138, R200). -/
theorem Playing.row_resume (r : BusResult) (rb : List BusResult) :
    step (rowTransferred r rb (seqTurns s.pulse.active 1 ++ rt) s) = .next (afterRow i r rb rt s) := by
  obtain ⟨hp, -, -, hf⟩ := (quiet_iff _).mp h.isQuiet
  have last : s.seq.upc + 1 = (uopsOf s.params s.seq.a0 s.seq.a1 i).length := h.not_last.mpr rfl
  have resumes := seqStep_of_ends (s := rowTransferred r rb rt s) h.command h.currentUop_eq
    (.inr ⟨nofun, congrArg some (resumeDma_of_result rfl)⟩)
  rw [step_seq_lifted (s := rowTransferred r rb (seqTurns s.pulse.active 1 ++ rt) s) hp rfl hf h.busy rfl rfl]
  refine resumes.trans (congrArg Host.Outcome.next ?_)
  cases r with
  | ok => exact endUop_done_last (s := setHold .none (rowTransferred .ok rb rt s)) last i
  | err => exact raiseErr_eq .busTransfer (setHold .none (rowTransferred .err rb rt s))

/-- DMA_ROW as the last uop of a command, PTX playing or not: submission, DMA's turn, resume. -/
theorem Playing.row_run {r : BusResult} {rb : List BusResult} (hr : s.draws.busResults = r :: rb)
    (ht : s.draws.turns = seqTurns s.pulse.active 1 ++ .dma :: (seqTurns s.pulse.active 1 ++ rt)) :
    Runs 3 s (afterRow i r rb rt s) :=
  (runs_succ _ _ _).mpr ⟨_, h.row_submission ht,
    (runs_succ _ _ _).mpr ⟨_, step_rowSubmitted hr _, runs_one (h.row_resume r rb)⟩⟩

end Row

/-! ### OUTPUT_ROW, from issue to `Done` (R205, R207) -/

/-- A PULSE uop that is not waited, with more uops after it: SEQ plays on beside PTX (R179). -/
theorem Playing.nowait_step {i : Instr} {us : List Uop} {a b : Half} {s : State} {ra : List Answer}
    (h : Playing i (.pulse a b false :: us) s) (more : us ≠ []) (ha : a ≤ s.params.pulseMaxTicks)
    (hb : b ≤ s.params.pulseMaxTicks) (hc : s.pulse.ch ≠ .inFlight)
    (hd : s.draws.answers = List.replicate (answersNeeded s.pulse.ch 1) .ok ++ ra) :
    step s = .next { s with
      seq := { s.seq with upc := s.seq.upc + 1 }
      pulse := playing a b
      draws := { s.draws with answers := ra }
      trace := s.trace ++ [pulseTxOf a b] } := by
  obtain ⟨t, rfl, submitted⟩ := submission (s := s) false ha hb hc hd
  have notLast : ¬ s.seq.upc + 1 = (uopsOf s.params s.seq.a0 s.seq.a1 i).length := mt h.not_last.mp more
  rw [h.step_eq, submitted, if_neg nofun, endUop, if_neg notLast]
  rfl

/-- OUTPUT_ROW stands at its DMA_ROW: the latch toggled, the pulse submitted with the answers `ra` left, the pulse side
being `p` by now, `es` the events since the last SHIFT and `ts` the turns left. -/
def rowReady (ra : List Answer) (ts : List Agent) (p : PulseUnit) (es : List Event) (s : State) : State :=
  let latching := putField .latchEnable true s.cfg
  let latched := putField .latchEnable false latching
  { s with
    cfg := latched
    seq := { s.seq with
      busy := true, op := 5, w := false, a0 := s.regs.arg0.extractLsb' 0 16, upc := 5, hold := .none, err := .none }
    pulse := p
    lines := restLines latched
    panel := panelHolding latched
    draws := { s.draws with answers := ra, turns := ts }
    trace := s.trace ++ [.cmd 5 false] ++ shiftEvents latching ++ shiftEvents latched ++ es }

theorem rowReady_playing {ra : List Answer} {ts : List Agent} {p : PulseUnit} {es : List Event} {s : State}
    (q : quiet s = true) (rests : p.active = false) : Playing .outputRow [.dmaRow] (rowReady ra ts p es s) := by
  obtain ⟨hp, -, hd, hf⟩ := (quiet_iff s).mp q
  exact ⟨(quiet_iff _).mpr ⟨hp, rests, hd, hf⟩, rfl, rfl, rfl, rfl⟩

/-- OUTPUT_ROW from its issue to its DMA_ROW, PTX playing. -/
theorem outputRow_pulse_run {s : State} {ra : List Answer} (q : quiet s = true) (hc : s.pulse.ch ≠ .inFlight)
    (high : s.regs.arg0.extractLsb' 0 16 ≤ s.params.pulseMaxTicks) (low : s.params.rowLow ≤ s.params.pulseMaxTicks)
    (ha : s.draws.answers = List.replicate (answersNeeded s.pulse.ch 1) .ok ++ ra) :
    let h := s.regs.arg0.extractLsb' 0 16
    Runs 5 (begun .outputRow s)
      (rowReady ra s.draws.turns (playing h s.params.rowLow) [pulseTxOf h s.params.rowLow] s) := by
  have plays := begun_playing (i := .outputRow) q
  obtain ⟨t, et, toggles, next⟩ :=
    plays.plain_run (us := [.setf .latchEnable true, .shift, .setf .latchEnable false, .shift])
      (vs := [.pulse _ _ false, .dmaRow]) rfl (List.cons_ne_nil _ _)
  simp only [effects_fields, eventsAfter, List.append_nil, ← List.append_assoc] at et
  subst et
  exact runs_add toggles (runs_one (next.nowait_step (List.cons_ne_nil _ _) high low hc ha))

/-- OUTPUT_ROW's end, the transfer's outcome being `r`. -/
theorem afterRow_rowReady (r : BusResult) (ra : List Answer) (rb : List BusResult) (rt ts : List Agent)
    (p : PulseUnit) (es : List Event) (s : State) :
    let latching := putField .latchEnable true s.cfg
    let latched := putField .latchEnable false latching
    let e := if r = .ok then Err.none else Err.busTransfer
    afterRow .outputRow r rb rt (rowReady ra ts p es s) = { s with
      cfg := latched
      seq := { seqAfter .outputRow e (if r = .ok then 6 else 5) s.seq with a0 := s.regs.arg0.extractLsb' 0 16 }
      pulse := p
      dma := { active := false, result := some r }
      lines := restLines latched
      panel := panelHolding latched
      phase := if r = .ok then s.phase else .unknown
      draws := { (spendRow s.params.bytesPerLine 0 s).draws with answers := ra, busResults := rb, turns := rt }
      trace := s.trace ++ [.cmd 5 false] ++ shiftEvents latching ++ shiftEvents latched
        ++ (es ++ [.dmaTx (rowBytes s.params.bytesPerLine 0 s), .dmaDone r, .done e]) } := by
  obtain ⟨row, left⟩ := row_of_same (n := s.params.bytesPerLine) (i := 0) (s := s) (t := rowReady ra ts p es s)
    rfl rfl rfl
  apply State.ext
  case draws =>
    rw [spendRow_draws _ _ s]
    exact congrArg (fun d : Draws => { d with busResults := rb, turns := rt }) left
  case trace =>
    rw [← row]
    exact (List.append_assoc ..).trans (List.append_assoc ..)
  all_goals rfl

/-- OUTPUT_ROW from DMA_ROW on, PTX playing or not. -/
theorem rowReady_run {s : State} {r : BusResult} {ra : List Answer} {rb : List BusResult} {rt ts : List Agent}
    {p : PulseUnit} {es : List Event} (q : quiet s = true) (hr : s.draws.busResults = r :: rb)
    (ht : ts = seqTurns p.active 1 ++ .dma :: (seqTurns p.active 1 ++ rt)) :
    Runs 3 (rowReady ra ts p es s) (afterRow .outputRow r rb rt (rowReady ra ts p es s)) :=
  Playing.row_run (rowReady_playing q rfl) hr ht

/-- PTX's turn between OUTPUT_ROW's submission of its pulse and its DMA_ROW (R180, R207). -/
theorem rowReady_pulseDone {s : State} {ra : List Answer} {ts : List Agent} {h l : Half} (q : quiet s = true) :
    step (rowReady ra (.ptx :: ts) (playing h l) [pulseTxOf h l] s) =
      .next (rowReady ra ts spentChannel [pulseTxOf h l, .pulseDone] s) := by
  obtain ⟨hp, -, hd, -⟩ := (quiet_iff s).mp q
  rw [step_ptx_turn (s := rowReady ra (.ptx :: ts) (playing h l) [pulseTxOf h l] s) hp rfl hd rfl]
  refine congrArg Host.Outcome.next (State.ext rfl rfl rfl rfl rfl rfl rfl rfl rfl rfl rfl rfl ?trace rfl)
  exact List.append_assoc ..

/-- Settles O16: `outputRow_pulse_run`, then `rowReady_run` beside PTX. -/
theorem outputRowRunsPulseLast : Obligations.OutputRowRunsPulseLast := by
  intro s r ra rb rt q idle hc written half high low ha hr ht
  have sends := rowReady_run (ra := ra) (p := playing (s.regs.arg0.extractLsb' 0 16) s.params.rowLow)
    (es := [pulseTxOf (s.regs.arg0.extractLsb' 0 16) s.params.rowLow]) q hr ht
  rw [afterRow_rowReady] at sends
  exact ⟨_, exec_outputRow_begun idle written half, runs_add (outputRow_pulse_run q hc high low ha) sends⟩

/-- Settles O17: the same with PTX's turn in between, after which DMA_ROW's steps are not drawn. -/
theorem outputRowRunsPulseFirst : Obligations.OutputRowRunsPulseFirst := by
  intro s r ra rb rt q idle hc written half high low ha hr ht
  have pulses := outputRow_pulse_run q hc high low ha
  rw [ht] at pulses
  have sends := rowReady_run (ra := ra) (p := spentChannel) (rt := rt)
    (es := [pulseTxOf (s.regs.arg0.extractLsb' 0 16) s.params.rowLow, .pulseDone]) q hr rfl
  rw [afterRow_rowReady] at sends
  exact ⟨_, exec_outputRow_begun idle written half,
    runs_add pulses ((runs_succ _ _ _).mpr ⟨_, rowReady_pulseDone q, sends⟩)⟩

end Sys2Proof.Machine


namespace Sys2Proof.Machine

/-! ### Whole commands of plain uops and waited pulses (R133, R178, R230 to R236) -/

/-- A uop that SEQ can play to its end from `s` when every answer is OK: a plain one, or a waited pulse within range on a
channel that is not consumed (R174, R175, R178). -/
def Uop.Playable (s : State) : Uop → Prop
  | .setf _ _ | .shift | .delay _ => True
  | .pulse a b wt =>
    wt = true ∧ a ≤ s.params.pulseMaxTicks ∧ b ≤ s.params.pulseMaxTicks ∧ s.pulse.ch ≠ .inFlight
  | .reclaim | .dmaRow => False

/-- The steps a playable uop takes: a waited pulse has one for its submission, PTX's turn, and one for its resume. -/
def Uop.steps : Uop → Nat
  | .pulse _ _ _ => 3
  | .setf _ _ | .shift | .delay _ | .reclaim | .dmaRow => 1

/-- The turns drawn for a playable uop: PTX's, while SEQ waits for it. -/
def Uop.turns : Uop → List Agent
  | .pulse _ _ _ => [.ptx]
  | .setf _ _ | .shift | .delay _ | .reclaim | .dmaRow => []

/-- The OK answers that a stretch of uops takes: two for each pulse, one more where the first initializes the channel. -/
def answersFor (ch : Channel) : List Uop → List Answer
  | [] => []
  | .pulse _ _ _ :: us => List.replicate (answersNeeded ch 2) .ok ++ answersFor .idle us
  | .setf _ _ :: us | .shift :: us | .delay _ :: us | .reclaim :: us | .dmaRow :: us => answersFor ch us

/-- The pulse side after a stretch of plain uops and waited pulses. -/
def pulseAfter (p : PulseUnit) : List Uop → PulseUnit
  | [] => p
  | .pulse _ _ _ :: us => pulseAfter idleChannel us
  | .setf _ _ :: us | .shift :: us | .delay _ :: us | .reclaim :: us | .dmaRow :: us => pulseAfter p us

/-- The events of a stretch of plain uops and waited pulses. -/
def playedEvents (c : Byte) : List Uop → List Event
  | [] => []
  | .setf f b :: us => playedEvents (putField f b c) us
  | .shift :: us => shiftEvents c ++ playedEvents c us
  | .delay n :: us => delayEvents n ++ playedEvents c us
  | .pulse a b _ :: us => waitedPulse a b ++ playedEvents c us
  | .reclaim :: us | .dmaRow :: us => playedEvents c us

/-- The state after a stretch of plain uops and waited pulses, `ra` and `rt` being the answers and the turns left. -/
def playedAfter (us : List Uop) (ra : List Answer) (rt : List Agent) (s : State) : State :=
  { s with
    cfg := cfgAfter s.cfg us
    seq := { s.seq with upc := s.seq.upc + us.length }
    pulse := pulseAfter s.pulse us
    lines := (shownAfter s.cfg (s.lines, s.panel) us).1
    panel := (shownAfter s.cfg (s.lines, s.panel) us).2
    draws := { s.draws with answers := ra, turns := rt }
    trace := s.trace ++ playedEvents s.cfg us }

theorem playedAfter_cons (u : Uop) (us : List Uop) (ra ra' : List Answer) (rt rt' : List Agent) (s : State) :
    playedAfter us ra rt (playedAfter [u] ra' rt' s) = playedAfter (u :: us) ra rt s := by
  have upc : s.seq.upc + 1 + us.length = s.seq.upc + (us.length + 1) := by omega
  cases u <;>
    simp [playedAfter, cfgAfter, pulseAfter, shownAfter, playedEvents, upc]

theorem answersFor_cons (p : PulseUnit) (u : Uop) (us : List Uop) :
    answersFor p.ch (u :: us) = answersFor p.ch [u] ++ answersFor (pulseAfter p [u]).ch us := by
  cases u <;> simp [answersFor, pulseAfter, idleChannel]

/-- What is playable stays so after another uop: a waited pulse gives the channel back (R178). -/
theorem Uop.Playable.after {u v : Uop} {s : State} (h : v.Playable s) (ra : List Answer) (rt : List Agent) :
    v.Playable (playedAfter [u] ra rt s) := by
  cases v with
  | setf _ _ | shift | delay _ => trivial
  | reclaim | dmaRow => exact h
  | pulse a b wt =>
    obtain ⟨waited, ha, hb, hc⟩ := h
    refine ⟨waited, ha, hb, ?_⟩
    cases u with
    | pulse _ _ _ => exact nofun
    | setf _ _ | shift | delay _ | reclaim | dmaRow => exact hc

namespace Playing

variable {i : Instr} {u : Uop} {us : List Uop} {s : State} {ra : List Answer} {rt : List Agent}

/-- A plain uop takes one step, and no draw. -/
theorem plain_uop_run (h : Playing i (u :: us) s) (plain : u.plain = true) :
    ∃ t, t = playedAfter [u] s.draws.answers s.draws.turns s ∧
      Runs 1 s (if us = [] then complete i t else t) ∧ (us ≠ [] → Playing i us t) := by
  have effect : advance (u.effect s) = playedAfter [u] s.draws.answers s.draws.turns s := by
    have fields := effects_fields [u] s
    rw [List.foldl_cons, List.foldl_nil] at fields
    rw [fields]
    cases u with
    | setf _ _ | shift | delay _ => rfl
    | pulse _ _ _ | reclaim | dmaRow => exact nomatch plain
  refine ⟨_, rfl, ?_, fun more => effect ▸ (h.plain_step plain more).2⟩
  split
  next last =>
    subst last
    exact effect ▸ runs_one (h.plain_last plain)
  next more => exact effect ▸ runs_one (h.plain_step plain more).1

/-- A playable uop, from its first step to its end. -/
theorem uop_run (h : Playing i (u :: us) s) (playable : u.Playable s)
    (ha : s.draws.answers = answersFor s.pulse.ch [u] ++ ra) (ht : s.draws.turns = u.turns ++ rt) :
    ∃ t, t = playedAfter [u] ra rt s ∧
      Runs u.steps s (if us = [] then complete i t else t) ∧ (us ≠ [] → Playing i us t) := by
  cases u with
  | setf _ _ | shift | delay _ =>
    obtain rfl : s.draws.answers = ra := ha
    obtain rfl : s.draws.turns = rt := ht
    exact h.plain_uop_run rfl
  | pulse a b wt =>
    obtain ⟨rfl, high, low, hc⟩ := playable
    rw [answersFor, answersFor, List.append_nil] at ha
    exact h.waited_run high low hc ha ht
  | reclaim | dmaRow => exact playable.elim

/-- All the uops a command has left, to its end. -/
theorem uops_run (h : Playing i us s) (more : us ≠ []) (playable : ∀ u ∈ us, u.Playable s)
    (ha : s.draws.answers = answersFor s.pulse.ch us ++ ra) (ht : s.draws.turns = us.flatMap Uop.turns ++ rt) :
    Runs (us.map Uop.steps).sum s (complete i (playedAfter us ra rt s)) := by
  induction us generalizing s with
  | nil => exact absurd rfl more
  | cons u us ih =>
    rw [answersFor_cons, List.append_assoc] at ha
    rw [List.flatMap_cons, List.append_assoc] at ht
    obtain ⟨t, rfl, run, next⟩ := h.uop_run (playable u List.mem_cons_self) ha ht
    rw [List.map_cons, List.sum_cons]
    by_cases last : us = []
    · subst last
      rw [if_pos rfl] at run
      exact run
    · rw [if_neg last] at run
      rw [← playedAfter_cons]
      exact runs_add run
        (ih (next last) last (fun v hv => (playable v (List.mem_cons_of_mem u hv)).after _ _) rfl rfl)

end Playing

/-- Where a command that reads no operand ends without error, its uops being `us` (R131, R136). -/
def endedAfter (i : Instr) (us : List Uop) (ra : List Answer) (rt : List Agent) (s : State) : State :=
  { s with
    cfg := cfgAfter s.cfg us
    seq := seqAfter i .none us.length s.seq
    pulse := pulseAfter s.pulse us
    lines := (shownAfter s.cfg (s.lines, s.panel) us).1
    panel := (shownAfter s.cfg (s.lines, s.panel) us).2
    phase := phaseDone i (phaseIssue i s.phase)
    draws := { s.draws with answers := ra, turns := rt }
    trace := s.trace ++ [.cmd (opOf i) (waitOf i)] ++ playedEvents s.cfg us ++ [.done .none] }

/-- Such a command, from its issue to its end. -/
theorem exec_ended_run {i : Instr} {us : List Uop} {s : State} {ra : List Answer} {rt : List Agent}
    (q : quiet s = true) (idle : s.seq.busy = false) (noOperand : argReads i = []) (present : i ≠ .reclaim)
    (list : uopsOf s.params (begun i s).seq.a0 (begun i s).seq.a1 i = us) (playable : ∀ u ∈ us, u.Playable s)
    (ha : s.draws.answers = answersFor s.pulse.ch us ++ ra) (ht : s.draws.turns = us.flatMap Uop.turns ++ rt) :
    ∃ t, exec i s = .next t ∧ Runs (us.map Uop.steps).sum t (endedAfter i us ra rt s) := by
  have issued : exec i s = .next (begun i s) :=
    exec_begun idle (.inl present) (by rw [noOperand]; rfl) (by rw [noOperand]; rfl)
  have plays := begun_playing (i := i) q
  rw [list] at plays
  have more : us ≠ [] := list ▸ uopsOf_ne_nil _ _ _ i
  have run := plays.uops_run more playable ha ht
  rw [begun_eq s noOperand, complete_eq] at run
  refine ⟨_, issued, ?_⟩
  rw [begun_eq s noOperand, endedAfter, seqAfter, ← Nat.zero_add us.length]
  exact run

/-- POWER_ON in a quiet state, no draw taken. -/
theorem powerOn_run {s : State} (q : quiet s = true) (idle : s.seq.busy = false) : ∃ t, exec .powerOn s = .next t ∧
    Runs 15 t (endedAfter .powerOn (powerOnUops s.params) s.draws.answers s.draws.turns s) :=
  exec_ended_run (i := .powerOn) q idle rfl nofun rfl (by simp [uopsOf, powerOnUops, Uop.Playable]) rfl rfl

/-- POWER_OFF likewise. -/
theorem powerOff_run {s : State} (q : quiet s = true) (idle : s.seq.busy = false) : ∃ t, exec .powerOff s = .next t ∧
    Runs 12 t (endedAfter .powerOff (powerOffUops s.params) s.draws.answers s.draws.turns s) :=
  exec_ended_run (i := .powerOff) q idle rfl nofun rfl (by simp [uopsOf, powerOffUops, Uop.Playable]) rfl rfl

/-- Settles O12: `powerOn_run`, its end written out. -/
theorem powerOnRuns : Obligations.PowerOnRuns := by
  intro s q idle
  have runs := powerOn_run q idle
  simp only [endedAfter, powerOnUops, playedEvents, List.append_nil, ← List.append_assoc] at runs
  exact runs

/-- Settles O13: `powerOff_run`, its end written out. -/
theorem powerOffRuns : Obligations.PowerOffRuns := by
  intro s q idle
  have runs := powerOff_run q idle
  simp only [endedAfter, powerOffUops, playedEvents, List.append_nil, ← List.append_assoc] at runs
  exact runs

/-- Settles O14: `exec_ended_run` with seven waited pulses, the first on the channel as it is found. -/
theorem frameStartRuns : Obligations.FrameStartRuns := by
  intro s ra rt q idle hc fit ha ht
  have answers : List.replicate (answersNeeded s.pulse.ch 14) .ok = answersFor s.pulse.ch (frameStartUops s.params) := by
    cases s.pulse.ch <;> rfl
  have runs := exec_ended_run (i := .frameStart) (us := frameStartUops s.params) (ra := ra) (rt := rt) q idle rfl nofun
    rfl (by simp [frameStartUops, Uop.Playable, (ticksFit_iff s.params).mp fit, hc]) (answers ▸ ha) ht
  simp only [endedAfter, frameStartUops, playedEvents, List.append_nil, ← List.append_assoc] at runs
  exact runs

/-- Settles O15, likewise. -/
theorem frameEndRuns : Obligations.FrameEndRuns := by
  intro s ra rt q idle hc fit ha ht
  have answers : List.replicate (answersNeeded s.pulse.ch 4) .ok = answersFor s.pulse.ch (frameEndUops s.params) := by
    cases s.pulse.ch <;> rfl
  have runs := exec_ended_run (i := .frameEnd) (us := frameEndUops s.params) (ra := ra) (rt := rt) q idle rfl nofun
    rfl (by simp [frameEndUops, Uop.Playable, (ticksFit_iff s.params).mp fit, hc]) (answers ▸ ha) ht
  simp only [endedAfter, frameEndUops, playedEvents, List.append_nil, ← List.append_assoc] at runs
  exact runs

/-! ### POWER_ON, then POWER_OFF (R240) -/

/-- CFG after POWER_ON's writes and then POWER_OFF's. -/
theorem cfgAfter_powerRoundTrip (p : Params) (c : Byte) :
    cfgAfter (cfgAfter c (powerOnUops p)) (powerOffUops p) = (c ||| 0x22) &&& 0xE3 := by
  refine BitVec.eq_of_getLsbD_eq fun k hk => ?_
  simp only [powerOnUops, powerOffUops, cfgAfter, getLsbD_putField, Field.bit, BitVec.getLsbD_and, BitVec.getLsbD_or]
  interval_cases k <;> simp

/-- Settles O23: `powerOff_run` from where `powerOn_run` ends, CFG by `cfgAfter_powerRoundTrip`. -/
theorem powerRoundTrip : Obligations.PowerRoundTrip := by
  intro s q idle
  obtain ⟨t, issuedOn, runOn⟩ := powerOn_run q idle
  obtain ⟨v, issuedOff, runOff⟩ :=
    powerOff_run (s := endedAfter .powerOn (powerOnUops s.params) s.draws.answers s.draws.turns s) q rfl
  have cfg := cfgAfter_powerRoundTrip s.params s.cfg
  refine ⟨t, _, v, _, issuedOn, runOn, rfl, rfl, issuedOff, runOff, rfl, rfl, ?disabled, ?stvLow, cfg, rfl, ?fromReset⟩
  case disabled =>
    refine (congrArg (getField .powerDisable) cfg).trans ?_
    simp [getField, Field.bit]
  case stvLow =>
    refine (congrArg (getField .stv) cfg).trans ?_
    simp [getField, Field.bit]
  case fromReset =>
    intro reset
    have ends : cfgAfter (cfgAfter s.cfg (powerOnUops s.params)) (powerOffUops s.params) = 0x22 := by
      rw [cfg, reset]
      decide
    exact ⟨ends, (congrArg (getField .scanDirection) ends).trans (by decide)⟩

/-! ### What a command that ends without error has made of CFG, whatever the answers and the turns (R136, R138, R150) -/

theorem cfgAfter_append (c : Byte) (us vs : List Uop) : cfgAfter c (us ++ vs) = cfgAfter (cfgAfter c us) vs := by
  induction us generalizing c with
  | nil => rfl
  | cons u us ih => cases u <;> exact ih _

/-- What the end of a uop says about CFG, `c` being its value before: done, the uop's own write has been made; held or
stopped, none; and an error has a code. -/
def UopEnd.FollowsCfg (u : Uop) (c : Byte) : UopEnd → Prop
  | .done s => s.cfg = cfgAfter c [u]
  | .held _ s | .stopped s => s.cfg = c
  | .error e _ => e ≠ .none

theorem submitPulse_followsCfg (a b : Half) (wt : Bool) (s : State) :
    (submitPulse a b wt s).FollowsCfg (.pulse a b wt) s.cfg := by
  obtain ⟨-, e⟩ | ⟨-, -, e⟩ | ⟨-, -, e⟩ := submitPulse_cases a b wt s <;> rw [e]
  · exact nofun
  · rfl
  · rfl

/-- A uop that takes a completion answer writes no field. -/
theorem takeCompletion_followsCfg {u : Uop} (s : State) (nothing : cfgAfter s.cfg [u] = s.cfg) :
    (takeCompletion s).FollowsCfg u s.cfg := by
  obtain ⟨-, e⟩ | ⟨-, e⟩ := takeCompletion_cases s <;> rw [e]
  · exact nothing.symm
  · exact nofun

theorem runUop_followsCfg (u : Uop) (s : State) : (runUop u s).FollowsCfg u s.cfg := by
  cases u with
  | setf f b => rfl
  | shift =>
    rw [runUop_shift]
    rfl
  | delay n =>
    rw [runUop, delayUop_eq]
    rfl
  | pulse a b wt =>
    rw [runUop]
    obtain ⟨-, e⟩ | ⟨-, ⟨-, e⟩ | ⟨-, -, e⟩ | ⟨-, -, e⟩ | ⟨-, e⟩⟩ := pulseUop_cases a b wt s <;> rw [e]
    · rw [recordFault_eq]
      rfl
    · exact nofun
    · exact nofun
    · exact submitPulse_followsCfg a b wt (initChannel (spendAnswer s))
    · exact submitPulse_followsCfg a b wt s
  | reclaim =>
    obtain ⟨-, e⟩ | ⟨-, -, e⟩ | ⟨-, -, e⟩ := reclaimUop_cases s <;> rw [runUop, e]
    · rfl
    · rfl
    · exact takeCompletion_followsCfg s rfl
  | dmaRow =>
    rw [runUop_dmaRow]
    rfl

theorem Ends.followsCfg {u : Uop} {s : State} {r : UopEnd} (h : Ends u s r) : r.FollowsCfg u s.cfg := by
  obtain ⟨-, rfl⟩ | ⟨-, resumed⟩ := h
  · exact runUop_followsCfg u s
  · obtain ⟨rfl | ⟨a, b, wt, rfl⟩, rfl⟩ | ⟨rfl, rfl⟩ := resumeUop_cases resumed
    · exact takeCompletion_followsCfg (setHold .none s) rfl
    · exact takeCompletion_followsCfg (setHold .none s) rfl
    · obtain e | e := resumeDma_cases (setHold .none s) <;> rw [e]
      · rfl
      · exact nofun

/-- The command SEQ is at and its list look at the parameters, the latched opcode, wait flag and operands alone. -/
theorem currentUops_congr {s t : State} (params : t.params = s.params)
    (seq : ∃ b n h e, t.seq = { s.seq with busy := b, upc := n, hold := h, err := e }) :
    currentCommand t = currentCommand s ∧ currentUops t = currentUops s := by
  obtain ⟨b, n, h, e, seq⟩ := seq
  simp only [currentUops, currentCommand, params, seq, and_self]

/-- What follows the end of a uop leaves the latched opcode, wait flag and operands. -/
theorem endUop_seq (i : Instr) (n : Nat) (r : UopEnd) :
    ∃ b m h e, (endUop i n r).seq = { r.state.seq with busy := b, upc := m, hold := h, err := e } := by
  cases r with
  | done s => obtain ⟨-, e⟩ | ⟨-, e⟩ := endUop_done_cases i n s <;> rw [e] <;> exact ⟨_, _, _, _, rfl⟩
  | held _ _ | error _ _ | stopped _ => exact ⟨_, _, _, _, rfl⟩

theorem seqStep_currentUops {s t : State} (h : seqStep s = .next t) :
    currentCommand t = currentCommand s ∧ currentUops t = currentUops s := by
  obtain ⟨params, -⟩ := seqStep_frame h
  obtain ⟨i, u, r, -, -, ends, rfl⟩ := seqStep_ends h
  obtain ⟨b, n, x, e, seq⟩ := endUop_seq i (uopsOf s.params s.seq.a0 s.seq.a1 i).length r
  obtain ⟨-, -, -, kept, -⟩ := ends.frame
  rw [kept] at seq
  exact currentUops_congr params ⟨_, _, _, _, seq⟩

/-- The HOST's program is over, SEQ runs or has run command `i` from `CFG = c`, and CFG is what the uops done so far have
made of it: those before `upc` while the command runs, all of them once it has ended without error. -/
structure Follows (i : Instr) (c : Byte) (s : State) : Prop where
  hostOver : s.host.program = []
  command : currentCommand s = some i
  running : s.seq.busy = true → s.cfg = cfgAfter c ((currentUops s).take s.seq.upc)
  ended : s.seq.busy = false → s.seq.err = .none → s.cfg = cfgAfter c (currentUops s)

namespace Follows

variable {i : Instr} {c : Byte} {s t : State}

/-- It looks at the parameters, the HOST's program, CFG and SEQ but for its hold. -/
theorem congr (h : Follows i c s) (params : t.params = s.params := by rfl) (host : t.host = s.host := by rfl)
    (cfg : t.cfg = s.cfg := by rfl) (seq : ∃ x, t.seq = { s.seq with hold := x } := by exact ⟨_, rfl⟩) :
    Follows i c t := by
  obtain ⟨hostOver, command, running, ended⟩ := h
  obtain ⟨x, seq⟩ := seq
  obtain ⟨sameCommand, sameUops⟩ := currentUops_congr params ⟨_, _, _, _, seq⟩
  refine ⟨by rw [host, hostOver], by rw [sameCommand, command], ?_, ?_⟩ <;> rw [cfg, sameUops, seq]
  · exact running
  · exact ended

/-- The uop at `upc` adds its own write to those before it. -/
theorem next_uop {u : Uop} (h : Follows i c s) (busy : s.seq.busy = true) (reached : currentUop s = some u) :
    cfgAfter s.cfg [u] = cfgAfter c ((currentUops s).take (s.seq.upc + 1)) := by
  rw [currentUop] at reached
  rw [h.running busy, ← cfgAfter_append, List.take_add_one, reached, Option.toList_some]

/-- A step of SEQ keeps it: what the uop's end says about CFG is what `endUop` makes of `upc` and `ERR`. -/
theorem of_seqStep (h : Follows i c s) (busy : s.seq.busy = true) (moves : seqStep s = .next t) : Follows i c t := by
  obtain ⟨-, host, -, -⟩ := seqStep_frame moves
  obtain ⟨sameCommand, sameUops⟩ := seqStep_currentUops moves
  suffices (t.seq.busy = true → t.cfg = cfgAfter c ((currentUops s).take t.seq.upc)) ∧
      (t.seq.busy = false → t.seq.err = .none → t.cfg = cfgAfter c (currentUops s)) from
    ⟨host ▸ h.hostOver, sameCommand.trans h.command, sameUops ▸ this.1, sameUops ▸ this.2⟩
  obtain ⟨j, u, r, command, reached, ends, rfl⟩ := seqStep_ends moves
  obtain ⟨-, -, -, seq, -⟩ := ends.frame
  have stillBusy : r.state.seq.busy = true := by rw [seq, busy]
  have sameUpc : r.state.seq.upc = s.seq.upc := by rw [seq]
  have cfg := ends.followsCfg
  cases r with
  | error e r => exact ⟨nofun, fun _ noError => absurd noError cfg⟩
  | held x r | stopped r =>
    exact ⟨fun _ => cfg.trans (sameUpc ▸ h.running busy), fun idle => absurd (stillBusy.symm.trans idle) nofun⟩
  | done r =>
    have written : r.cfg = cfgAfter c ((currentUops s).take (r.seq.upc + 1)) :=
      cfg.trans (sameUpc ▸ h.next_uop busy reached)
    obtain ⟨last, e⟩ | ⟨-, e⟩ := endUop_done_cases j (uopsOf s.params s.seq.a0 s.seq.a1 j).length r <;> rw [e]
    · have whole : (currentUops s).take (r.seq.upc + 1) = currentUops s := by
        rw [last, currentUops, command, List.take_length]
      exact ⟨nofun, fun _ _ => whole ▸ written⟩
    · exact ⟨fun _ => written, fun idle => absurd (stillBusy.symm.trans idle) nofun⟩

/-- So does a step of any other agent that can move, none of which touches CFG or SEQ. -/
theorem of_step (h : Follows i c s) (moves : step s = .next t) : Follows i c t := by
  obtain ⟨d, rfl | ⟨a, can, moves⟩⟩ := step_moves moves
  · exact h.congr
  have h' : Follows i c (s.setDraws d) := h.congr
  cases a with
  | host => simp [enabled, hostEnabled, h.hostOver] at can
  | seq => exact h'.of_seqStep (busy_and_lifted_of_enabled can).1 moves
  | ptx =>
    obtain rfl := Host.Outcome.next.inj moves
    exact h'.congr
  | dma =>
    obtain rfl := Host.Outcome.next.inj moves
    exact h'.congr

end Follows

/-- A begun command follows its list from its start, and so all along its run. -/
theorem follows_of_run {i : Instr} {s t u : State} {n : Nat} (hostOver : s.host.program = [])
    (issued : exec i s = .next (begun i s)) (h : exec i s = .next t) (run : Runs n t u) : Follows i s.cfg u := by
  obtain rfl := Host.Outcome.next.inj (issued.symm.trans h)
  obtain ⟨op, w, -⟩ := begun_seq i s
  refine runs_induct (fun _ _ => Follows.of_step) run ⟨hostOver, ?_, fun _ => rfl, nofun⟩
  simp only [currentCommand, op, w, instrOf_opOf]

/-- FRAME_END's own writes (R236). -/
theorem cfgAfter_frameEnd (p : Params) (c : Byte) :
    getField .outputEnable (cfgAfter c (frameEndUops p)) = false ∧ getField .mode (cfgAfter c (frameEndUops p)) = true := by
  simp only [frameEndUops, cfgAfter]
  rw [getField_putField_of_ne (by decide)]
  exact ⟨getField_putField_same .., getField_putField_same ..⟩

/-- Settles O24: the HOST has nothing left to do, so that FRAME_END's own writes decide. -/
theorem emptyFrameEndsDark : Obligations.EmptyFrameEndsDark := by
  intro s t u v w n m q idle issuedStart runStart idle' _ issuedEnd runEnd ends noError
  obtain ⟨hostOver, -⟩ := (quiet_iff s).mp q
  have started := follows_of_run hostOver (exec_begun (i := .frameStart) idle (.inl nofun) rfl rfl) issuedStart runStart
  have followed :=
    follows_of_run started.hostOver (exec_begun (i := .frameEnd) idle' (.inl nofun) rfl rfl) issuedEnd runEnd
  have uops : currentUops w = frameEndUops w.params := by simp only [currentUops, followed.command, uopsOf]
  rw [followed.ended ends noError, uops]
  exact cfgAfter_frameEnd w.params u.cfg

end Sys2Proof.Machine

namespace Sys2Proof.Machine

/-! ### The engine errors of a running command (R138, R260, R261) -/

/-- The engine errors a uop can end with, run or resumed: a pulse fails at a consumed channel or by the peripheral's
answer (R175 to R178), RECLAIM by the answer alone (R186), DMA_ROW by the transfer's outcome (R200). -/
def uopErrs : Uop → List Err
  | .setf _ _ | .shift | .delay _ => []
  | .pulse _ _ _ => [.pulseConfig, .channelUnavailable]
  | .reclaim => [.pulseConfig]
  | .dmaRow => [.busTransfer]

/-- The engine errors a running command can end with: R261's table, by command. -/
def commandErrs : Instr → List Err
  | .powerOn | .powerOff => []
  | .frameStart | .frameEnd | .skip | .pulse _ => [.pulseConfig, .channelUnavailable]
  | .outputRow => [.pulseConfig, .channelUnavailable, .busTransfer]
  | .reclaim => [.pulseConfig]

/-- A command's errors are those of the uops of its list (R133). -/
theorem uopErrs_subset_commandErrs {p : Params} {a0 a1 : Half} {i : Instr} {u : Uop} (h : u ∈ uopsOf p a0 a1 i) :
    uopErrs u ⊆ commandErrs i := by
  suffices all : ∀ v ∈ uopsOf p a0 a1 i, uopErrs v ⊆ commandErrs i from all u h
  cases i with
  | powerOn => simp [uopsOf, powerOnUops, uopErrs]
  | powerOff => simp [uopsOf, powerOffUops, uopErrs]
  | frameStart => simp [uopsOf, frameStartUops, uopErrs, commandErrs]
  | frameEnd => simp [uopsOf, frameEndUops, uopErrs, commandErrs]
  | outputRow => simp [uopsOf, outputRowUops, uopErrs, commandErrs]
  | skip => simp [uopsOf, skipUops, uopErrs, commandErrs]
  | pulse w => simp [uopsOf, pulseUops, uopErrs, commandErrs]
  | reclaim => simp [uopsOf, reclaimUops, uopErrs, commandErrs]

/-- A uop that ends by an error ends by one of its own. -/
def UopEnd.RaisesOwn (u : Uop) : UopEnd → Prop
  | .error e _ => e ∈ uopErrs u
  | .done _ | .held _ _ | .stopped _ => True

theorem submitPulse_raisesOwn (a b : Half) (wt : Bool) (s : State) :
    (submitPulse a b wt s).RaisesOwn (.pulse a b wt) := by
  obtain ⟨-, e⟩ | ⟨-, -, e⟩ | ⟨-, -, e⟩ := submitPulse_cases a b wt s <;> rw [e]
  · exact List.mem_cons_self
  · trivial
  · trivial

/-- A completion answer raises `Err(1)` or nothing (R178, R186). -/
theorem takeCompletion_raisesOwn {u : Uop} (s : State) (own : Err.pulseConfig ∈ uopErrs u) :
    (takeCompletion s).RaisesOwn u := by
  obtain ⟨-, e⟩ | ⟨-, e⟩ := takeCompletion_cases s <;> rw [e]
  · trivial
  · exact own

theorem runUop_raisesOwn (u : Uop) (s : State) : (runUop u s).RaisesOwn u := by
  cases u with
  | setf _ _ | shift | delay _ => trivial
  | pulse a b wt =>
    rw [runUop]
    obtain ⟨-, e⟩ | ⟨-, ⟨-, e⟩ | ⟨-, -, e⟩ | ⟨-, -, e⟩ | ⟨-, e⟩⟩ := pulseUop_cases a b wt s <;> rw [e]
    · trivial
    · exact List.mem_cons_of_mem _ List.mem_cons_self
    · exact List.mem_cons_self
    · exact submitPulse_raisesOwn a b wt _
    · exact submitPulse_raisesOwn a b wt s
  | reclaim =>
    obtain ⟨-, e⟩ | ⟨-, -, e⟩ | ⟨-, -, e⟩ := reclaimUop_cases s <;> rw [runUop, e]
    · trivial
    · trivial
    · exact takeCompletion_raisesOwn s List.mem_cons_self
  | dmaRow => trivial

theorem Ends.raisesOwn {u : Uop} {s : State} {r : UopEnd} (h : Ends u s r) : r.RaisesOwn u := by
  obtain ⟨-, rfl⟩ | ⟨-, resumed⟩ := h
  · exact runUop_raisesOwn u s
  · obtain ⟨rfl | ⟨a, b, wt, rfl⟩, rfl⟩ | ⟨rfl, rfl⟩ := resumeUop_cases resumed
    · exact takeCompletion_raisesOwn _ List.mem_cons_self
    · exact takeCompletion_raisesOwn _ List.mem_cons_self
    · obtain e | e := resumeDma_cases (setHold .none s) <;> rw [e]
      · trivial
      · exact List.mem_cons_self

/-- `ERR` is left as it is by what follows a uop's end, or is an error of the uop's own (R136, R138). -/
theorem endUop_err (i : Instr) (n : Nat) {u : Uop} {r : UopEnd} (h : r.RaisesOwn u) :
    (endUop i n r).seq.err = r.state.seq.err ∨ (endUop i n r).seq.err ∈ uopErrs u := by
  cases r with
  | done s => obtain ⟨-, e⟩ | ⟨-, e⟩ := endUop_done_cases i n s <;> rw [e] <;> exact .inl rfl
  | held _ _ | stopped _ => exact .inl rfl
  | error _ _ => exact .inr h

/-- A step of SEQ leaves `ERR` or sets it to an error of the command it runs. -/
theorem seqStep_err {s t : State} {i : Instr} (h : seqStep s = .next t) (command : currentCommand s = some i) :
    t.seq.err = s.seq.err ∨ t.seq.err ∈ commandErrs i := by
  obtain ⟨j, u, r, command', reached, ends, rfl⟩ := seqStep_ends h
  obtain rfl : i = j := Option.some.inj (command.symm.trans command')
  rw [currentUop_eq_getElem? command] at reached
  obtain ⟨-, -, -, seq, -⟩ := ends.frame
  obtain kept | own := endUop_err i (uopsOf s.params s.seq.a0 s.seq.a1 i).length ends.raisesOwn
  · exact .inl (by rw [kept, seq])
  · exact .inr (uopErrs_subset_commandErrs (List.mem_of_getElem? reached) own)

/-- While a command runs, the HOST cannot touch SEQ (R130). -/
theorem hostAccess_seq_of_busy {a : Access} {s t : State} (h : hostAccess a s = .next t) (busy : s.seq.busy = true) :
    t.seq = s.seq := by
  obtain ⟨i, p, rfl⟩ | ⟨v, rfl⟩ | ⟨v, r, rfl⟩ | ⟨i, b, -, rfl⟩ | ⟨off, width, v, d, rfl⟩ | ⟨k, rfl⟩ :=
    hostAccess_cases h
  · rw [issue, if_pos busy, recordFault_eq, State.setFaults_seq]
  · rw [issueIllegal, if_pos busy, recordFault_eq, State.setFaults_seq]
  · rfl
  · rw [writeBuf, if_pos busy, recordFault_eq, State.setFaults_seq]
  · rfl
  · rw [recordFault_eq, State.setFaults_seq]

/-- While a command runs, a step that is not SEQ's leaves SEQ as it is. -/
theorem step_seq_of_busy {s t : State} (h : step s = .next t) (busy : s.seq.busy = true) :
    t.seq = s.seq ∨ ∃ d, seqStep (s.setDraws d) = .next t := by
  obtain ⟨d, rfl | ⟨a, -, moves⟩⟩ := step_moves h
  · exact .inl rfl
  cases a with
  | host =>
    obtain ⟨p, rfl | ⟨a, access⟩⟩ := hostStep_cases moves
    · exact .inl rfl
    · exact .inl (hostAccess_seq_of_busy (s := (s.setDraws d).setHost { s.host with program := p }) access busy)
  | seq => exact .inr ⟨d, moves⟩
  | ptx | dma =>
    obtain rfl := Host.Outcome.next.inj moves
    exact .inl rfl

/-- After a step of a running command `ERR` is 0 or an error of that command. -/
theorem step_err_of_running {s t : State} {i : Instr} (inv : SeqInv s) (h : step s = .next t)
    (busy : s.seq.busy = true) (command : currentCommand s = some i) :
    t.seq.err = .none ∨ t.seq.err ∈ commandErrs i := by
  obtain ⟨-, -, -, noError, -⟩ := inv.1 busy
  obtain same | ⟨d, moves⟩ := step_seq_of_busy h busy
  · exact .inl (same ▸ noError)
  · exact (seqStep_err (s := s.setDraws d) moves command).imp_left fun kept => kept.trans noError

/-- Settles O58 from what any step of a running command leaves in `ERR`, its last one included: `commandErrs` reads as
R261's rows. -/
theorem errorsByCommand : Obligations.ErrorsByCommand := by
  intro s t i inv h busy _ command
  have err := step_err_of_running inv h busy command
  cases i with
  | powerOn | powerOff => exact err.resolve_right List.not_mem_nil
  | frameStart | frameEnd | skip | pulse _ | reclaim => simpa [commandErrs] using err
  | outputRow =>
    intro illegal
    simp [illegal, commandErrs] at err

/-! ### A running command with nothing left to move (R271) -/

/-- Nothing is left for the HOST to do, or it waits for the running command to end (R108). -/
theorem host_disabled_of_waiting {s : State} (busy : s.seq.busy = true)
    (waits : s.host.program = [] ∨ ∃ r, s.host.program = .waitIdle :: r) : enabled s .host = false := by
  obtain finished | ⟨r, waiting⟩ := waits
  · simp [enabled, hostEnabled, finished]
  · simp [enabled, hostEnabled, waiting, busy]

/-- Settles O60: none of the four agents is enabled, SEQ because of the recorded fault, and a command runs. -/
theorem stuckAfterLongDuration : Obligations.StuckAfterLongDuration := by
  intro s busy fault waits ptx dma
  have noAgent : enabledAgents s = [] := by
    have host := host_disabled_of_waiting busy waits
    have seq := seq_disabled_of_durRange fault
    have ptxRests : enabled s .ptx = false := ptx
    have dmaRests : enabled s .dma = false := dma
    simp [enabledAgents, host, seq, ptxRests, dmaRests]
  simp [step, scheduledStep, noAgent, noAgentStep, busy]

end Sys2Proof.Machine
